-- ==== Sys2Proof/Word.lean ====
section
/-! DEFINITION. The two word types of the register master: the 8-bit register cell and the 7-bit register address
(00_scope.md R5, R9; 92_eei_decisions.md D2). -/

namespace Sys2Proof

/-- `Byte` is 0 to 255: "an 8-bit addressable memory cell" (R5, R9). -/
abbrev Byte := BitVec 8

/-- `Addr` is 0 to 127: the eighth bit of the address byte is the write marker, so an address of 128 or more cannot be
expressed (R5, R7 (a), R85). -/
abbrev Addr := BitVec 7

end Sys2Proof
end

