-- ==== Sys2Proof/Syntax.lean ====
section
/-! DEFINITION. The instructions of spec/opcode_table.json at their three levels (30_encoding.md R80): bus frames,
micro-operations with the pseudo-operations, and host commands. -/

namespace Sys2Proof

/-- The operating modes the document enumerates: "{Standby, Transmit, Receive}" (R5, R36). -/
inductive Mode where
  | standby
  | transmit
  | receive
  deriving DecidableEq, Repr

/-- The three chip flags the master reads (R33). -/
inductive Flag where
  /-- `FLAG_PR`, "payload ready". -/
  | pr
  /-- `FLAG_FNE`, "FIFO not empty". -/
  | fne
  /-- `FLAG_PS`, "packet sent". -/
  | ps
  deriving DecidableEq, Repr

/-- One constructor per row of spec/opcode_table.json. -/
inductive Instr where
  /-- Level B, row W: the write frame `1aaaaaaa vvvvvvvv` (R81). -/
  | w (a : Addr) (v : Byte)
  /-- Level B, row R: the read frame `0aaaaaaa dddddddd`, `d` the dummy byte (R82). -/
  | r (a : Addr) (d : Byte)
  /-- Level B, row BW: the burst write frame `1aaaaaaa` and its data bytes, all for the one address (R83). -/
  | bw (a : Addr) (data : List Byte)
  /-- Level U, row WREG: `writeRegister(address, value)` (R110). -/
  | wreg (a : Addr) (v : Byte)
  /-- Level U, row RREG: `readRegister(address) -> value` (R113). -/
  | rreg (a : Addr)
  /-- Level U, row FIFOWR: the burst of the first `n` bytes of the caller's buffer to the FIFO (R116). -/
  | fifowr (n : Byte)
  /-- Level U, row SETMODE: write the mode register (R130). -/
  | setmode (m : Mode)
  /-- Level U, row CLRFIFO: "clear FIFO/flag state" (R132). -/
  | clrfifo
  /-- Level U, row RFLAG: read a flag register and test its mask (R119). -/
  | rflag (f : Flag)
  /-- Level H, row INIT: `initialize(syncLength, syncTolerance, syncValue, receivePacketLength)` (R145, R92). -/
  | init (syncLength : Nat) (syncTolerance : Byte) (syncValue : List Byte) (rxLen : Byte)
  /-- Level H, row POLL: `pollReceivedPacket(buffer, capacity)`, the buffer implicit (R165, R92). -/
  | poll (capacity : Byte)
  /-- Level H, row TX: `transmit(data, length, suppressSync)`, the data implicit (R180, R92). -/
  | tx (length : Byte) (suppressSync : Bool)
  /-- Level H, the reserved command code 00 (R95). -/
  | reserved
  deriving DecidableEq, Repr

/-- What can be laid before the master to be decoded: the bytes of a host command (the model's own operand bytes behind
the code of R91, log 6), or the master's bytes inside one chip-select bracket (R84, R97). -/
inductive PortWord where
  | command (bytes : List Byte)
  | bracket (bytes : List Byte)
  deriving DecidableEq, Repr

end Sys2Proof
end

