-- ==== Sys2Proof/Config.lean ====
section
/-! DEFINITION. What an implementation fixes: the parameter record `P` (00_scope.md R6) with its constraints (R7), the
constants the document fixes (R5), the default binding B0 (93_implementation_defined.md GK1), and the free values, each an
opaque constant of which nothing can be proved. -/

namespace Sys2Proof

/-- A flag of the chip: the (register address, mask) pair of R6. -/
structure FlagLoc where
  addr : Addr
  mask : Byte
  deriving DecidableEq, Repr

/-- The record `P` of R6, in the order of its table. -/
structure Params where
  addrMode : Addr
  valStandby : Byte
  valTransmit : Byte
  valReceive : Byte
  addrFifo : Addr
  addrScratch : Addr
  addrSyncCfg : Addr
  syncOn : Byte
  addrSyncVal : Addr
  addrPlen : Addr
  flagPr : FlagLoc
  flagFne : FlagLoc
  flagPs : FlagLoc
  clrAddr : Addr
  clrVal : Byte
  addrFifoThr : Addr
  valFifoThr : Byte
  cfgMod : List (Addr × Byte)
  cfgBitrate : List (Addr × Byte)
  cfgFdev : List (Addr × Byte)
  cfgFrf : List (Addr × Byte)
  cfgRxbw : List (Addr × Byte)
  cfgPkt : List (Addr × Byte)
  cfgPreamble : List (Addr × Byte)
  dummy : Byte
  deriving DecidableEq, Repr

/-- The table lookup `MODE_VAL[m]` (R86 (c)). -/
def Params.modeVal (p : Params) : Mode → Byte
  | .standby => p.valStandby
  | .transmit => p.valTransmit
  | .receive => p.valReceive

/-- The (address, mask) pair of a flag (R33). -/
def Params.flag (p : Params) : Flag → FlagLoc
  | .pr => p.flagPr
  | .fne => p.flagFne
  | .ps => p.flagPs

/-- Does an address lie in `ADDR_SYNCVAL .. ADDR_SYNCVAL + 7` (R7 (f), (g))? -/
def Params.inSyncVal (p : Params) (a : Addr) : Bool :=
  p.addrSyncVal.toNat ≤ a.toNat && a.toNat ≤ p.addrSyncVal.toNat + 7

/-- The `CFG_*` lists one after another, in the order of R146. -/
def Params.cfgEntries (p : Params) : List (Addr × Byte) :=
  p.cfgMod ++ p.cfgBitrate ++ p.cfgFdev ++ p.cfgFrf ++ p.cfgRxbw ++ p.cfgPkt ++ p.cfgPreamble

/-- R7 (b): the eight sync-value registers are consecutive without wrap. -/
def Params.syncValOk (p : Params) : Bool := p.addrSyncVal.toNat + 7 ≤ 127

/-- R7 (c): the three mode values are pairwise different. -/
def Params.modesOk (p : Params) : Bool := [p.valStandby, p.valTransmit, p.valReceive].Nodup

/-- R7 (d): every mask is non-zero. -/
def Params.masksOk (p : Params) : Bool := p.flagPr.mask != 0 && p.flagFne.mask != 0 && p.flagPs.mask != 0

/-- R7 (e): `SYNC_ON` is non-zero and does not overlap bits 5 to 0. -/
def Params.syncOnOk (p : Params) : Bool := p.syncOn != 0 && p.syncOn &&& 0x3F == 0

/-- The six addresses of R7 (f). -/
def Params.fixedAddrs (p : Params) : List Addr :=
  [p.addrMode, p.addrFifo, p.addrSyncCfg, p.addrPlen, p.clrAddr, p.addrFifoThr]

/-- R7 (f): they are pairwise different and none lies among the sync-value registers. -/
def Params.fixedOk (p : Params) : Bool :=
  p.fixedAddrs.Nodup && p.fixedAddrs.all fun a => !p.inSyncVal a

/-- R7 (g): no configuration entry writes the mode, FIFO, sync-configuration or sync-value registers. -/
def Params.cfgOk (p : Params) : Bool :=
  p.cfgEntries.all fun e =>
    e.1 != p.addrMode && e.1 != p.addrFifo && e.1 != p.addrSyncCfg && !p.inSyncVal e.1

/-- R7 (h): the scratch register is none of the registers the liveness loop must not touch. -/
def Params.scratchOk (p : Params) : Bool :=
  [p.addrMode, p.addrFifo, p.clrAddr, p.flagPr.addr, p.flagFne.addr, p.flagPs.addr].all (p.addrScratch != ·)

/-- R6: `CFG_BITRATE` has exactly two entries and `CFG_FRF` exactly three. -/
def Params.groupsOk (p : Params) : Bool := p.cfgBitrate.length == 2 && p.cfgFrf.length == 3

/-- DEDUCED (log 17): the list CFG of R146 has at most 255 entries, since `k + 1 < K` is an order of bytes (R98 (g)) and
`idx + 1` is computed only below a bound that is itself at most 255 (R98 (f)). The list is these entries with the CLRFIFO
and payload-length writes. -/
def Params.sizeOk (p : Params) : Bool := p.cfgEntries.length + 2 ≤ 255

/-- Every constraint a binding of `P` must meet (R6, R7; (a) holds by the type `Addr`). -/
def Params.wf (p : Params) : Bool :=
  p.syncValOk && p.modesOk && p.masksOk && p.syncOnOk && p.fixedOk && p.cfgOk && p.scratchOk && p.groupsOk && p.sizeOk

/-- PRESUMED (log 1): the default binding B0 of GK1, the SX1231/RFM69 family's register numbers. No authority of the
source. -/
def Config.b0 : Params where
  addrMode := 0x01
  valStandby := 0x04
  valTransmit := 0x0C
  valReceive := 0x10
  addrFifo := 0x00
  addrScratch := 0x2F
  addrSyncCfg := 0x2E
  syncOn := 0x80
  addrSyncVal := 0x2F
  addrPlen := 0x38
  flagPr := ⟨0x28, 0x04⟩
  flagFne := ⟨0x28, 0x40⟩
  flagPs := ⟨0x28, 0x08⟩
  clrAddr := 0x28
  clrVal := 0x10
  addrFifoThr := 0x3C
  valFifoThr := 0x8F
  cfgMod := [(0x02, 0x00)]
  cfgBitrate := [(0x03, 0x7D), (0x04, 0x00)]
  cfgFdev := [(0x05, 0x01), (0x06, 0x9A)]
  cfgFrf := [(0x07, 0x6C), (0x08, 0x79), (0x09, 0x9A)]
  cfgRxbw := [(0x19, 0x55)]
  cfgPkt := [(0x37, 0x00)]
  cfgPreamble := [(0x2C, 0x00), (0x2D, 0x00)]
  dummy := 0x00

/-- `FIFO_CAP` (R5): the chip's FIFO holds 66 bytes. -/
def Config.fifoCap : Nat := 66

/-- The first liveness sentinel (R5, R147). -/
def Config.sentinelA : Byte := 0xAA

/-- The second liveness sentinel (R5, R147). -/
def Config.sentinelB : Byte := 0x55

/-- "write zero (sync disabled)" (R86 (e), R183). -/
def Config.syncDisabled : Byte := 0x00

/-- FREE VALUE (log 2): the byte the chip returns at the n-th unscripted exchange ("undefined/garbage values", R32, R62,
R111; U10, U16). -/
opaque Config.chipByte : Nat → Byte

/-- FREE VALUE (log 12): what the caller's buffer holds at an index the host never loaded, per load of the buffer
(R43, U21). -/
opaque Config.bufByte : Nat → Nat → Byte

/-- FREE VALUE (log 11): `idx` at INIT's `Done`, "not fixed by this spec" (R28). -/
opaque Config.idxAfterInit : Nat → Byte

/-- FREE VALUE (log 10): the latch `sync_len` while it holds no operand (R24), per `Start` and `Done`. -/
opaque Config.staleSyncLen : Nat → BitVec 4

/-- FREE VALUE (log 10): the latch `sync_tol` while it holds no operand (R24). -/
opaque Config.staleSyncTol : Nat → Byte

/-- FREE VALUE (log 10): cell `i` of `sync_val[0..7]` while it holds no operand, and beyond the operand's bytes (R24). -/
opaque Config.staleSyncVal : Nat → Nat → Byte

/-- FREE VALUE (log 10): the latch `rx_plen` while it holds no operand (R24). -/
opaque Config.staleRxPlen : Nat → Byte

/-- FREE VALUE (log 10): the latch `cap` while it holds no operand (R24). -/
opaque Config.staleCap : Nat → Byte

/-- FREE VALUE (log 10): the latch `tx_len` while it holds no operand (R24). -/
opaque Config.staleTxLen : Nat → Byte

/-- FREE VALUE (log 10): the latch `suppress` while it holds no operand (R24). -/
opaque Config.staleSuppress : Nat → Bool

/-- OPEN (R8, R53; D1): whether a byte goes out most significant bit first. Nothing reads it: the model is at byte
level (log 19). -/
opaque Config.msbFirst : Bool

/-- OPEN (R8; D1): the clock polarity `CPOL`. Nothing reads it (log 19). -/
opaque Config.cpol : Bool

/-- OPEN (R8; D1): the clock phase `CPHA`. Nothing reads it (log 19). -/
opaque Config.cpha : Bool

/-- OPEN (R8; D1): the clock rate `SCK_HZ`. Nothing reads it (log 19). -/
opaque Config.sckHz : Nat

end Sys2Proof
end

