-- ==== Sys2Proof/WellFormed.lean ====
section
/-! DEFINITION. Which instructions the types of 30_encoding.md R83, R92 and R95 allow. Every check is a Bool, so that
tests can run it. -/

namespace Sys2Proof

/-- The data of a burst frame is at most 255 bytes (R83: `0 <= n <= 255`). -/
def burstOk (data : List Byte) : Bool := data.length ≤ 255

/-- `syncLength` is 1 to 8 and `syncValue` has exactly that many bytes (R92, R95). -/
def initOk (syncLength : Nat) (syncValue : List Byte) : Bool :=
  1 ≤ syncLength && syncLength ≤ 8 && syncValue.length == syncLength

/-- The operands are in the types the spec gives them. Every other operand is bounded by its Lean type: an address is
7 bits, a value 8 bits. TX is well formed at every length 0 to 255: the master does not check it (R186, log 8). -/
def Instr.wf : Instr → Bool
  | .w _ _ => true
  | .r _ _ => true
  | .bw _ data => burstOk data
  | .wreg _ _ => true
  | .rreg _ => true
  | .fifowr _ => true
  | .setmode _ => true
  | .clrfifo => true
  | .rflag _ => true
  | .init len _ val _ => initOk len val
  | .poll _ => true
  | .tx _ _ => true
  | .reserved => true

end Sys2Proof
end

