-- ==== Sys2Proof/Decode.lean ====
section
/-! DEFINITION. Decoding, total on any bytes, and the encoder beside it. A bracket seen on the bus is decoded by
30_encoding.md R97; a host command by the 2-bit code of R91. At level U the sequencer's label decides (R89): see
Machine/Sequencer.lean. -/

namespace Sys2Proof

/-- Why some bytes are no instruction. -/
inductive DecodeError where
  /-- A bracket without a byte: "the master never produces it" (R97). -/
  | emptyBracket
  /-- `t0[7] = 0` and other than two bytes: "never produced by the master" (R97). -/
  | readNotTwoBytes
  /-- More data bytes than a burst frame has (R83: `n <= 255`). -/
  | burstTooLong
  /-- A command without a byte (log 6). -/
  | emptyCommand
  /-- A command whose first byte is no 2-bit code (R91, log 6). -/
  | codeNotTwoBits
  /-- A command whose operand bytes are missing (log 6). -/
  | operandMissing
  /-- The suppressSync byte is neither 0 nor 1 (R92: a Bool; log 6). -/
  | notBool
  deriving DecidableEq, Repr

/-- The address byte `(w << 7) OR a` (R85). -/
def addrByte (write : Bool) (a : Addr) : Byte := (if write then 0x80 else 0x00) ||| a.setWidth 8

/-- Bit 7 of byte 0, the write marker (R84, R89). -/
def writeMarker (b : Byte) : Bool := b.msb

/-- Bits 6 to 0 of byte 0, the register address (R81, R82). -/
def addrField (b : Byte) : Addr := b.setWidth 7

/-- R97: two bytes with the marker are a W frame ("equally BW(t0[6:0], [t1])"), any other number a BW frame; without the
marker only two bytes are a frame. -/
def decodeBracket : List Byte → Except DecodeError Instr
  | [] => .error .emptyBracket
  | t0 :: ts =>
    if writeMarker t0 then
      match ts with
      | [v] => .ok (.w (addrField t0) v)
      | data => if burstOk data then .ok (.bw (addrField t0) data) else .error .burstTooLong
    else
      match ts with
      | [d] => .ok (.r (addrField t0) d)
      | _ => .error .readNotTwoBytes

/-- The operand bytes of INIT (DESIGN CHOICE, log 6): `syncLength - 1`, `syncTolerance`, `rxLen`, then the sync bytes. -/
def decodeInit : List Byte → Except DecodeError Instr
  | len :: tol :: rxLen :: val => .ok (.init (len.toNat + 1) tol (val.take (len.toNat + 1)) rxLen)
  | _ => .error .operandMissing

/-- The operand byte of POLL (DESIGN CHOICE, log 6): `capacity`. -/
def decodePoll : List Byte → Except DecodeError Instr
  | cap :: _ => .ok (.poll cap)
  | _ => .error .operandMissing

/-- The operand bytes of TX (DESIGN CHOICE, log 6): `length`, then `suppressSync` as 0 or 1. -/
def decodeTx : List Byte → Except DecodeError Instr
  | len :: b :: _ => if b = 0 then .ok (.tx len false) else if b = 1 then .ok (.tx len true) else .error .notBool
  | _ => .error .operandMissing

/-- R91: code 00 is reserved, 01 INIT, 10 POLL, 11 TX. The code stands in bits 1 and 0 of the first byte, whose other bits
are 0 (DESIGN CHOICE, log 6). -/
def decodeCommand : List Byte → Except DecodeError Instr
  | [] => .error .emptyCommand
  | code :: operands =>
    if code = 0b00 then .ok .reserved
    else if code = 0b01 then decodeInit operands
    else if code = 0b10 then decodePoll operands
    else if code = 0b11 then decodeTx operands
    else .error .codeNotTwoBits

/-- The decoder of both ports. -/
def decode : PortWord → Except DecodeError Instr
  | .command bytes => decodeCommand bytes
  | .bracket bytes => decodeBracket bytes

/-- The bytes the master sends inside the bracket of a frame or micro-operation, in order (R81 to R83, R87, R88). `data`
is the caller's buffer, from which FIFOWR takes its first `n` bytes. A host command is no frame. -/
def Instr.frameBytes (p : Params) (data : List Byte) : Instr → List Byte
  | .w a v => [addrByte true a, v]
  | .r a d => [addrByte false a, d]
  | .bw a ds => addrByte true a :: ds
  | .wreg a v => [addrByte true a, v]
  | .rreg a => [addrByte false a, p.dummy]
  | .fifowr n => addrByte true p.addrFifo :: data.take n.toNat
  | .setmode m => [addrByte true p.addrMode, p.modeVal m]
  | .clrfifo => [addrByte true p.clrAddr, p.clrVal]
  | .rflag f => [addrByte false (p.flag f).addr, p.dummy]
  | .init _ _ _ _ => []
  | .poll _ => []
  | .tx _ _ => []
  | .reserved => []

/-- The encoder: a host command as the bytes `decodeCommand` reads, anything else as its bracket. -/
def encode (p : Params) (data : List Byte) : Instr → PortWord
  | .init len tol val rxLen => .command ([0b01, BitVec.ofNat 8 (len - 1), tol, rxLen] ++ val)
  | .poll cap => .command [0b10, cap]
  | .tx len suppress => .command [0b11, len, if suppress then 1 else 0]
  | .reserved => .command [0b00]
  | .w a v => .bracket ((Instr.w a v).frameBytes p data)
  | .r a d => .bracket ((Instr.r a d).frameBytes p data)
  | .bw a ds => .bracket ((Instr.bw a ds).frameBytes p data)
  | .wreg a v => .bracket ((Instr.wreg a v).frameBytes p data)
  | .rreg a => .bracket ((Instr.rreg a).frameBytes p data)
  | .fifowr n => .bracket ((Instr.fifowr n).frameBytes p data)
  | .setmode m => .bracket ((Instr.setmode m).frameBytes p data)
  | .clrfifo => .bracket (Instr.clrfifo.frameBytes p data)
  | .rflag f => .bracket ((Instr.rflag f).frameBytes p data)

/-- The burst to an address as a frame: a burst of one byte is bit for bit a W frame (R84, R97). -/
def burstFrame (a : Addr) : List Byte → Instr
  | [b] => .w a b
  | ds => .bw a ds

/-- What its words mean once they are on the bus: a micro-operation or pseudo-operation is the frame of the tables of R87
and R88, a one-byte burst is a W frame (R84), and everything else is itself. -/
def Instr.onBus (p : Params) (data : List Byte) : Instr → Instr
  | .w a v => .w a v
  | .r a d => .r a d
  | .bw a ds => burstFrame a ds
  | .wreg a v => .w a v
  | .rreg a => .r a p.dummy
  | .fifowr n => burstFrame p.addrFifo (data.take n.toNat)
  | .setmode m => .w p.addrMode (p.modeVal m)
  | .clrfifo => .w p.clrAddr p.clrVal
  | .rflag f => .r (p.flag f).addr p.dummy
  | .init len tol val rxLen => .init len tol val rxLen
  | .poll cap => .poll cap
  | .tx len suppress => .tx len suppress
  | .reserved => .reserved

/-- The `n` bytes of a number, the most significant first: a frame's pattern has "byte 0 first" (R81). -/
def bytesOf : Nat → Nat → List Byte
  | 0, _ => []
  | n + 1, x => BitVec.ofNat 8 (x >>> (8 * n)) :: bytesOf n x

/-- A word of spec/opcode_table.json laid out as the hardware has it (log 22): 16 bits or more are a bracket, byte 0
first; one byte is a bracket where it has the write marker (the address byte of BW), else a command code with operand
bytes of zeros. -/
def tableWord (nbits x : Nat) : PortWord :=
  if nbits ≤ 8 then
    if x.testBit 7 then .bracket (bytesOf 1 x) else .command (bytesOf 1 x ++ List.replicate 11 0)
  else .bracket (bytesOf ((nbits + 7) / 8) x)

/-- The instruction the decoder reads from a word of the table. -/
def decodeTableWord (nbits x : Nat) : Option Instr :=
  match decode (tableWord nbits x) with
  | .ok i => some i
  | .error _ => none

end Sys2Proof
end

