-- ==== Sys2Proof/Machine/State.lean ====
section
/-! DEFINITION. The state: the master's record `s` (10_state.md R20 to R31), the two ghosts (R34, R35), what the master has
done to the chip (R32, R36 to R42), the caller's buffer (R43), and as plain data the parameters and inputs of the step
(R6, R44, R62, R73, R90, R12). -/

namespace Sys2Proof.Machine

/-- The command in progress (R23). -/
inductive Cmd where
  | none
  | init
  | poll
  | tx
  deriving DecidableEq, Repr

/-- The mode last written, or `Unknown` (R9, R34). -/
inductive GMode where
  | unknown
  | known (m : Mode)
  deriving DecidableEq, Repr

/-- The sequencer labels (R27). -/
inductive Label where
  | idle
  -- INIT (R146)
  | i1w
  | i1r
  | i1w2
  | i1r2
  | i2 (k : Nat)
  | i3c
  | i3v (i : Fin 8)
  | i4
  | i5
  -- POLL (R166)
  | p1
  | p2
  | p3
  -- TX (R181)
  | t1m
  | t1c
  | t2r
  | t2w
  | t3r
  | t3w
  | t4
  | t5m
  | t5p
  | t6m
  | t6w
  | t7w
  | t7m
  deriving DecidableEq, Repr

/-- The alphabet of the event trace (R12). -/
inductive Event where
  /-- `Start(cmd, operands)`: the command with its operands. -/
  | start (command : Instr)
  | acq
  | csLow
  /-- `X(t, r)`: `t` chosen by the master, `r` by the environment. -/
  | x (t r : Byte)
  | csHigh
  | rel
  | bufRd (i : Nat) (b : Byte)
  | bufWr (i : Nat) (b : Byte)
  /-- `Done(result)`: nothing for INIT and TX, (received, length) for POLL (R93). -/
  | done (result : Option (Bool × Byte))
  deriving DecidableEq, Repr

/-- One move of the host (R90, R216; DESIGN CHOICE, log 5). -/
inductive HostMove where
  /-- Lay a word before the master now: a command is a `Start` (R90), a bracket a raw frame for a bench (D8, log 7). -/
  | issue (word : PortWord)
  /-- Wait until the command in progress is done. -/
  | await
  /-- Let one step of the master go by. -/
  | pause
  /-- Put bytes into the caller's buffer, from index 0; waits while a command runs (D29). -/
  | load (data : List Byte)
  /-- The reset event, between transactions (R230, R232). -/
  | reset
  /-- The reset event inside the next transaction, after `n` of its byte exchanges (R232, log 15). -/
  | resetIn (n : Nat)
  deriving DecidableEq, Repr

/-- What the bus arbiter does once its schedule of grants is at its end (R73, R210; log 3). -/
inductive GrantsEnd where
  /-- Every later `Acquire()` returns. A schedule that ends so is weakly fair (D26). -/
  | granted
  /-- Another user keeps the bus for ever: the master is stuck at `Acquire()` (R210). -/
  | never
  deriving DecidableEq, Repr

/-- Memory: (address, byte) pairs, addresses strictly rising. An address not listed has no value (log 12, log 13). -/
abbrev Memory := List Host.Cell

/-- Why the machine stops with a fault. -/
inductive Fault where
  /-- R94, R210: a `Start` (or, log 7, a raw frame) while a command runs. Raised by execInit, execPoll, execTx and
  issueWord. Safe. -/
  | cmdWhileBusy
  /-- R25, R210: a restore reads a latch that holds none. Raised by microOp and advance; unreachable. Safe. -/
  | readOfUnwrittenLatch
  /-- The label's index lies outside its table, or there is no label (log 18). Raised by microOp; unreachable. Safe. -/
  | noSuchLabel
  deriving DecidableEq, Repr

/-- Why an instruction is refused. -/
inductive Refusal where
  /-- exec's arm of an instruction that has no meaning yet. Safe. -/
  | notModelled (mnemonic : String)
  /-- R95: "code 00 is reserved; a `Start` carrying it is refused". Raised by execReserved. Safe. -/
  | reservedCommand
  /-- R95: INIT with a syncLength outside 1 to 8, or a syncValue of another length. Raised by execInit. Safe. -/
  | invalidSyncLength
  /-- R83: a burst frame of more than 255 data bytes is none. Raised by execBw. Safe. -/
  | burstTooLong
  /-- The word at the port is no instruction (R97, log 6). Raised by issueWord. Safe. -/
  | malformedWord (e : DecodeError)
  deriving DecidableEq, Repr

/-- The state of the machine. INVENTORY.md, State, gives each field's rule. -/
structure State where
  -- the master (R21 to R29)
  csN : BitVec 1
  ownsBus : Bool
  cmd : Cmd
  seq : Label
  idx : Byte
  rxd : Option Byte
  svSync : Option Byte
  svPlen : Option Byte
  syncLen : BitVec 4
  syncTol : Byte
  syncVal : Vector Byte 8
  rxPlen : Byte
  cap : Byte
  txLen : Byte
  suppress : Bool
  resReceived : Bool
  resLen : Byte
  -- the ghosts (R34, R35)
  gMode : GMode
  gConfigured : Bool
  -- the chip, as the master has acted on it (R32, R40, R50; log 13)
  regs : Memory
  fifoIn : List Byte
  fifoOut : List Byte
  -- the caller's buffer (R43)
  buffer : Memory
  bufEpoch : Nat
  -- parameters and inputs (R6, R44, R62, R73, R90)
  cfg : Params
  rx : List Byte
  drawn : Nat
  opEpoch : Nat
  arbiter : List Bool
  arbiterEnd : GrantsEnd
  host : List HostMove
  -- the observation (R12)
  trace : List Event
  deriving DecidableEq, Repr

/-- The machine right after reset (R45, R230), before the host has made a move. The operand latches' zeros are
log 10, `cfg` log 1, the inputs log 2, log 3 and log 5. -/
def State.reset : State where
  csN := 1
  ownsBus := false
  cmd := .none
  seq := .idle
  idx := 0
  rxd := none
  svSync := none
  svPlen := none
  syncLen := 0
  syncTol := 0
  syncVal := #v[0, 0, 0, 0, 0, 0, 0, 0]
  rxPlen := 0
  cap := 0
  txLen := 0
  suppress := false
  resReceived := false
  resLen := 0
  gMode := .unknown
  gConfigured := false
  regs := []
  fifoIn := []
  fifoOut := []
  buffer := []
  bufEpoch := 0
  cfg := Config.b0
  rx := []
  drawn := 0
  opEpoch := 0
  arbiter := []
  arbiterEnd := .granted
  host := []
  trace := []

end Sys2Proof.Machine
end

