-- ==== Sys2Proof/Machine/Ops.lean ====
section
/-! DEFINITION. The named operations over memory, the bus and the registers that the meanings share. There is no operation
that takes an exception: the master has none (60_exceptions.md R200, R203); its one event from outside is reset (R230). -/

namespace Sys2Proof.Machine

/-- What a meaning answers. -/
abbrev Result := Host.Outcome State Fault Refusal

/-- The byte at an address, or none where nothing is listed. -/
def Memory.read? : Memory → Nat → Option Byte
  | [], _ => none
  | (k, x) :: m, a => if k = a then some x else Memory.read? m a

/-- Write one byte, keeping the addresses strictly rising. -/
def Memory.write : Memory → Nat → Byte → Memory
  | [], a, v => [(a, v)]
  | (k, x) :: m, a, v =>
    if a < k then (a, v) :: (k, x) :: m
    else if a = k then (a, v) :: m
    else (k, x) :: Memory.write m a v

/-- The canonical form: addresses strictly rising. -/
def Memory.wf (m : Memory) : Bool := decide ((m.map Prod.fst).Pairwise (· < ·))

/-- Bytes at consecutive addresses. -/
def Memory.ofBytes : Nat → List Byte → Memory
  | _, [] => []
  | i, b :: bs => (i, b) :: Memory.ofBytes (i + 1) bs

/-- Append events to the trace (R12). -/
def State.emit (es : List Event) (s : State) : State := { s with trace := s.trace ++ es }

/-- The byte the chip returns in the next exchange: the script's next, else a free value (R62, R111; log 2). -/
def State.answer (s : State) : Byte :=
  match s.rx with
  | b :: _ => b
  | [] => Config.chipByte s.drawn

/-- `Xfer(t)`: one exchange, sending `t` while the chip answers (R10). -/
def State.xfer (t : Byte) (s : State) : State :=
  { s with
    rx := s.rx.tail
    drawn := if s.rx.isEmpty then s.drawn + 1 else s.drawn
    trace := s.trace ++ [.x t s.answer] }

/-- Does another user own the bus when the master asks for it (R73; log 3)? -/
def State.busHeld (s : State) : Bool :=
  match s.arbiter with
  | granted :: _ => !granted
  | [] => s.arbiterEnd == .never

/-- The master holds at `Acquire()`: one refused grant passes, where the schedule lists one, and no event (R73, R210). -/
def State.hold (s : State) : State := { s with arbiter := s.arbiter.tail }

/-- `Acquire(); s.owns_bus <- true; s.cs_n <- 0` (R110, R115). -/
def State.openBracket (s : State) : State :=
  { s with
    arbiter := s.arbiter.tail
    ownsBus := true
    csN := 0
    trace := s.trace ++ [.acq, .csLow] }

/-- `s.cs_n <- 1; s.owns_bus <- false; Release()` (R110, R115). -/
def State.closeBracket (s : State) : State :=
  { s with csN := 1, ownsBus := false, trace := s.trace ++ [.csHigh, .rel] }

/-- Is a write the one that clears FIFO and flags (R41, R132)? A write to the FIFO register is not. -/
def isClear (p : Params) (a : Addr) (v : Byte) : Bool := a != p.addrFifo && a == p.clrAddr && v == p.clrVal

/-- "in the chip, register a is given v, with that register's side effects" (R110, R59): the ledger of what the master
did to the chip (log 13). -/
def State.chipWrite (a : Addr) (v : Byte) (s : State) : State :=
  { s with
    regs := s.regs.write a.toNat v
    fifoIn := if isClear s.cfg a v then [] else if a = s.cfg.addrFifo then s.fifoIn ++ [v] else s.fifoIn
    fifoOut := if isClear s.cfg a v then [] else s.fifoOut }

/-- "the read's side effect if register a has one (a FIFO read pops)" (R113, R59): the ledger (log 13). -/
def State.chipRead (a : Addr) (v : Byte) (s : State) : State :=
  { s with fifoOut := if a = s.cfg.addrFifo then s.fifoOut ++ [v] else s.fifoOut }

/-- A W frame's bracket (R81, R110). -/
def State.writeFrame (a : Addr) (v : Byte) (s : State) : State :=
  (((s.openBracket.xfer (addrByte true a)).xfer v).chipWrite a v).closeBracket

/-- An R frame's bracket: the byte returned during the second exchange goes to `rxd` (R82, R113). -/
def State.readFrame (a : Addr) (d : Byte) (s : State) : State :=
  let s1 := s.openBracket.xfer (addrByte false a)
  { ((s1.xfer d).chipRead a s1.answer).closeBracket with rxd := some s1.answer }

/-- The opening of a burst: the address byte, then `s.idx <- 0` (R116). -/
def State.startBurst (a : Addr) (s : State) : State := { s.openBracket.xfer (addrByte true a) with idx := 0 }

/-- The data bytes of a burst to one address (R83, R56), `idx` counting them (R116). -/
def State.sendBytes (a : Addr) : List Byte → State → State
  | [], s => s
  | b :: bs, s => State.sendBytes a bs { (s.xfer b).chipWrite a b with idx := s.idx + 1 }

/-- A BW frame's bracket, its data given (R83). -/
def State.burstFrame (a : Addr) (data : List Byte) (s : State) : State :=
  (State.sendBytes a data (s.startBurst a)).closeBracket

/-- `BufRd(i)`: byte i of the caller's buffer (R10, R43); what the host never loaded is a free value (log 12). -/
def State.bufByte (s : State) (i : Nat) : Byte :=
  match s.buffer.read? i with
  | some b => b
  | none => Config.bufByte s.bufEpoch i

/-- `BufWr(i, b)` (R10, R43). -/
def State.bufWr (i : Nat) (b : Byte) (s : State) : State :=
  { s with buffer := s.buffer.write i b, trace := s.trace ++ [.bufWr i b] }

/-- `{ b <- BufRd(s.idx); r <- Xfer(b); s.idx <- s.idx + 1 }` (R116). -/
def State.sendNext (s : State) : State :=
  let b := s.bufByte s.idx.toNat
  { ((s.emit [.bufRd s.idx.toNat b]).xfer b).chipWrite s.cfg.addrFifo b with idx := s.idx + 1 }

/-- The loop of R116, `k` bytes still to send. -/
def State.sendBuffer : Nat → State → State
  | 0, s => s
  | k + 1, s => State.sendBuffer k s.sendNext

/-- FIFOWR's bracket (R116, R117). -/
def State.fifoFrame (n : Byte) (s : State) : State :=
  (State.sendBuffer n.toNat (s.startBurst s.cfg.addrFifo)).closeBracket

/-- `Acquire()` returns once the bus is granted (R118); until then the master holds. -/
def withBus (s : State) (transaction : State → State) : Result :=
  if s.busHeld then .next s.hold else .next (transaction s)

/-- The eight cells of `sync_val` where they hold no operand (R24; log 10). -/
def staleCells (n : Nat) : Vector Byte 8 :=
  #v[Config.staleSyncVal n 0, Config.staleSyncVal n 1, Config.staleSyncVal n 2, Config.staleSyncVal n 3,
    Config.staleSyncVal n 4, Config.staleSyncVal n 5, Config.staleSyncVal n 6, Config.staleSyncVal n 7]

/-- "No operand survives its command" (R24): every operand latch is a free value (log 10). -/
def State.dropOperands (s : State) : State :=
  { s with
    syncLen := Config.staleSyncLen s.opEpoch
    syncTol := Config.staleSyncTol s.opEpoch
    syncVal := staleCells s.opEpoch
    rxPlen := Config.staleRxPlen s.opEpoch
    cap := Config.staleCap s.opEpoch
    txLen := Config.staleTxLen s.opEpoch
    suppress := Config.staleSuppress s.opEpoch
    opEpoch := s.opEpoch + 1 }

/-- Accept a `Start` (R90): refused while a command runs (R94); `rxd` becomes none (R26), and no latch holds an operand
until the command writes its own (R24). -/
def State.accept (command : Instr) (cmd : Cmd) (first : Label) (s : State) : State :=
  { s.dropOperands with cmd := cmd, seq := first, rxd := none, trace := s.trace ++ [.start command] }

/-- The end of a command: `s.cmd <- None; s.seq <- Idle; Done(result)` (R155, R170, R190); its operands are gone (R24). -/
def State.finish (result : Option (Bool × Byte)) (s : State) : State :=
  { s.dropOperands with cmd := .none, seq := .idle, trace := s.trace ++ [.done result] }

/-- The reset event: every field of the master and both ghosts take the values of R45 (R230). The chip is not reset
(R231), and the parameters, inputs, buffer and trace stay. -/
def State.resetMaster (s : State) : State :=
  { State.reset with
    regs := s.regs
    fifoIn := s.fifoIn
    fifoOut := s.fifoOut
    buffer := s.buffer
    bufEpoch := s.bufEpoch
    cfg := s.cfg
    rx := s.rx
    drawn := s.drawn
    opEpoch := s.opEpoch
    arbiter := s.arbiter
    arbiterEnd := s.arbiterEnd
    host := s.host
    trace := s.trace }

/-- After a frame cut short the chip's whole state is unknown (R232, U12): the ledger is forgotten. -/
def State.forgetChip (s : State) : State := { s with regs := [], fifoIn := [], fifoOut := [] }

end Sys2Proof.Machine
end

