-- ==== Sys2Proof/Machine/Operands.lean ====
section
/-! DEFINITION. The operand forms the master assembles (30_encoding.md R86, R98) and the latching of operands (10_state.md
R24). -/

namespace Sys2Proof.Machine

/-- `SYNC_ON OR ((sync_len - 1) << 3) OR sync_tol`, 8 bits, the tolerance unmasked (R86 (a), R152). -/
def syncConfigByte (p : Params) (len : Nat) (tol : Byte) : Byte := p.syncOn ||| (BitVec.ofNat 8 (len - 1) <<< 3) ||| tol

/-- `ADDR_SYNCVAL + i` (R86 (b), R153). -/
def syncValAddr (p : Params) (i : Nat) : Addr := p.addrSyncVal + BitVec.ofNat 7 i

/-- The list CFG of R146, with the CLRFIFO write seventh and the payload length last (R149, R151). -/
def cfgList (p : Params) (rxPlen : Byte) : List (Addr × Byte) :=
  p.cfgMod ++ p.cfgBitrate ++ p.cfgFdev ++ p.cfgFrf ++ p.cfgRxbw ++ p.cfgPkt ++ [(p.clrAddr, p.clrVal)] ++ p.cfgPreamble
    ++ [(p.addrPlen, rxPlen)]

/-- Latch sync bytes from cell `i` on; the cells beyond the operand are not meaningful (R24) and stay. -/
def latchSync : Vector Byte 8 → Nat → List Byte → Vector Byte 8
  | cells, _, [] => cells
  | cells, i, b :: bs => latchSync (cells.setIfInBounds i b) (i + 1) bs

end Sys2Proof.Machine
end

