-- ==== Sys2Proof/Machine/Commands.lean ====
section
/-! DEFINITION. The host commands: what `Start` does (30_encoding.md R90, R94, R95). The transactions of a command are the
steps that follow, one each (D33): Machine/Sequencer.lean. -/

namespace Sys2Proof.Machine

/-- Start(INIT): latch the four operands and go to `I1w` (R145, R146); refused on operands outside their type (R95). The
cells of `sync_val` beyond the operand are free values (R24; log 10). DESIGN CHOICE (log 23): busy is checked first. -/
def execInit (syncLength : Nat) (syncTolerance : Byte) (syncValue : List Byte) (rxLen : Byte) (s : State) : Result :=
  if s.seq ≠ .idle then .fault .cmdWhileBusy
  else if initOk syncLength syncValue then
    .next
      { s.accept (.init syncLength syncTolerance syncValue rxLen) .init .i1w with
        syncLen := BitVec.ofNat 4 syncLength
        syncTol := syncTolerance
        syncVal := latchSync s.dropOperands.syncVal 0 syncValue
        rxPlen := rxLen }
  else .refused .invalidSyncLength

/-- Start(POLL): latch the capacity, `s.idx <- 0`, go to `P1` (R165, R166). -/
def execPoll (capacity : Byte) (s : State) : Result :=
  if s.seq ≠ .idle then .fault .cmdWhileBusy
  else .next { s.accept (.poll capacity) .poll .p1 with cap := capacity, idx := 0 }

/-- Start(TX): latch the operands, clear the saved latches, go to `T1m` (R180), whatever the length (R186; log 8). -/
def execTx (length : Byte) (suppressSync : Bool) (s : State) : Result :=
  if s.seq ≠ .idle then .fault .cmdWhileBusy
  else
    .next
      { s.accept (.tx length suppressSync) .tx .t1m with
        txLen := length
        suppress := suppressSync
        svSync := none
        svPlen := none }

/-- Code 00: "a `Start` carrying it is refused (no step, no event)" (R95). DESIGN CHOICE (log 23): also while a command runs. -/
def execReserved (_s : State) : Result := .refused .reservedCommand

end Sys2Proof.Machine
end

