-- ==== Sys2Proof/Machine/Frames.lean ====
section
/-! DEFINITION. Level B: the meanings of the bus frames W, R and BW (30_encoding.md R81 to R83; semantics R110, R113,
R116), for the raw port of log 7. -/

namespace Sys2Proof.Machine

/-- W: one write bracket (R81, R110). -/
def execW (a : Addr) (v : Byte) (s : State) : Result := withBus s (State.writeFrame a v)

/-- R: one read bracket, sending the frame's own dummy byte (R82, R113). -/
def execR (a : Addr) (d : Byte) (s : State) : Result := withBus s (State.readFrame a d)

/-- BW: one burst bracket, every data byte to the one address (R83, R116; log 21). -/
def execBw (a : Addr) (data : List Byte) (s : State) : Result :=
  if burstOk data then withBus s (State.burstFrame a data) else .refused .burstTooLong

end Sys2Proof.Machine
end

