-- ==== Sys2Proof/Machine/ModeControl.lean ====
section
/-! DEFINITION. Unit U2: the meanings of SETMODE and CLRFIFO (41_mode_control.md). -/

namespace Sys2Proof.Machine

/-- `WREG(ADDR_MODE, MODE_VAL[m]); g.mode <- m` (R130): the whole byte, no read first (R131), no wait (R133). -/
def State.selectMode (m : Mode) (s : State) : State :=
  { s.writeFrame s.cfg.addrMode (s.cfg.modeVal m) with gMode := .known m }

/-- SETMODE (R130). -/
def execSetmode (m : Mode) (s : State) : Result := withBus s (State.selectMode m)

/-- CLRFIFO: exactly one write, `WREG(CLR_ADDR, CLR_VAL)` (R132). -/
def execClrfifo (s : State) : Result := withBus s fun s => s.writeFrame s.cfg.clrAddr s.cfg.clrVal

end Sys2Proof.Machine
end

