-- ==== Sys2Proof/Machine/RegisterAccess.lean ====
section
/-! DEFINITION. Unit U1: the meanings of WREG, RREG, FIFOWR and RFLAG (40_register_access.md). -/

namespace Sys2Proof.Machine

/-- WREG (R110): no read-back, no retry, no failure (R112). -/
def execWreg (a : Addr) (v : Byte) (s : State) : Result := withBus s (State.writeFrame a v)

/-- RREG (R113): the byte sampled in this one frame goes to `rxd` (R114). -/
def execRreg (a : Addr) (s : State) : Result := withBus s (State.readFrame a s.cfg.dummy)

/-- FIFOWR (R116), the same for every n (R117). -/
def execFifowr (n : Byte) (s : State) : Result := withBus s (State.fifoFrame n)

/-- RFLAG (R119): `v <- RREG(ADDR_FLAG_f)`; its Bool is `State.flagResult f` of the next state (log 24). -/
def execRflag (f : Flag) (s : State) : Result := withBus s (State.readFrame (s.cfg.flag f).addr s.cfg.dummy)

end Sys2Proof.Machine
end

