-- ==== Sys2Proof/Machine/Dispatch.lean ====
section
/-! DEFINITION. One arm per constructor of Instr: one row of spec/opcode_table.json each. -/

namespace Sys2Proof.Machine

def exec (i : Instr) (s : State) : Host.Outcome State Fault Refusal :=
  match i with
  | .w a v => Sys2Proof.Machine.execW a v s
  | .r a d => Sys2Proof.Machine.execR a d s
  | .bw a data => Sys2Proof.Machine.execBw a data s
  | .wreg a v => Sys2Proof.Machine.execWreg a v s
  | .rreg a => Sys2Proof.Machine.execRreg a s
  | .fifowr n => Sys2Proof.Machine.execFifowr n s
  | .setmode m => Sys2Proof.Machine.execSetmode m s
  | .clrfifo => Sys2Proof.Machine.execClrfifo s
  | .rflag f => Sys2Proof.Machine.execRflag f s
  | .init len tol val rxLen => Sys2Proof.Machine.execInit len tol val rxLen s
  | .poll cap => Sys2Proof.Machine.execPoll cap s
  | .tx len suppress => Sys2Proof.Machine.execTx len suppress s
  | .reserved => Sys2Proof.Machine.execReserved s

end Sys2Proof.Machine
end

