-- ==== Sys2Proof/Machine/Flags.lean ====
section
/-! DEFINITION. The flag computations: the master has no flags of its own; a chip flag is a mask test of a byte just read
(10_state.md R33, 40_register_access.md R119). -/

namespace Sys2Proof.Machine

/-- A flag is set in a byte v exactly when `v AND MASK /= 0` (R33). -/
def flagSet (p : Params) (f : Flag) (v : Byte) : Bool := v &&& (p.flag f).mask != 0

/-- RFLAG's result: the mask test of the byte it read, which `rxd` holds (R119, R26; log 24). -/
def State.flagResult (f : Flag) (s : State) : Bool :=
  match s.rxd with
  | some v => flagSet s.cfg f v
  | none => false

/-- The liveness compare, on all 8 bits (R147). -/
def State.sentinelRead (v : Byte) (s : State) : Bool := s.rxd == some v

end Sys2Proof.Machine
end

