-- ==== Sys2Proof/Machine/Sequencer.lean ====
section
/-! DEFINITION. The three command sequences as label tables (42_initialize.md R146, 43_receive_poll.md R166,
44_transmit.md R181): at level U the sequencer's label decides the micro-operation (R89), and each label's rule says which
label follows (R27). -/

namespace Sys2Proof.Machine

/-- A saved latch's byte; a read of none is the fault of R25. -/
def saved : Option Byte → Except Fault Byte
  | some v => .ok v
  | none => .error .readOfUnwrittenLatch

/-- The number of entries of CFG, `K` (R146). -/
def State.cfgLength (s : State) : Nat := (cfgList s.cfg s.rxPlen).length

/-- `WREG CFG[k].addr, CFG[k].val` (R146, label I2[k]). -/
def microI2 (k : Nat) (s : State) : Except Fault Instr :=
  match (cfgList s.cfg s.rxPlen)[k]? with
  | some (a, v) => .ok (.wreg a v)
  | none => .error .noSuchLabel

/-- `WREG ADDR_SYNCVAL + i, s.sync_val[i]`, for `i < s.sync_len` only (R146, R153, label I3v[i]). -/
def microI3v (i : Fin 8) (s : State) : Except Fault Instr :=
  if i.val < s.syncLen.toNat then .ok (.wreg (syncValAddr s.cfg i.val) s.syncVal[i]) else .error .noSuchLabel

/-- A write of a saved latch (R189, R190). -/
def microRestore (a : Addr) (latch : Option Byte) : Except Fault Instr :=
  match saved latch with
  | .ok v => .ok (.wreg a v)
  | .error f => .error f

/-- The micro-operation of a label: the tables of R146, R166 and R181. -/
def microOp (l : Label) (s : State) : Except Fault Instr :=
  match l with
  | .idle => .error .noSuchLabel
  | .i1w => .ok (.wreg s.cfg.addrScratch Config.sentinelA)
  | .i1r => .ok (.rreg s.cfg.addrScratch)
  | .i1w2 => .ok (.wreg s.cfg.addrScratch Config.sentinelB)
  | .i1r2 => .ok (.rreg s.cfg.addrScratch)
  | .i2 k => microI2 k s
  | .i3c => .ok (.wreg s.cfg.addrSyncCfg (syncConfigByte s.cfg s.syncLen.toNat s.syncTol))
  | .i3v i => microI3v i s
  | .i4 => .ok (.wreg s.cfg.addrFifoThr s.cfg.valFifoThr)
  | .i5 => .ok (.setmode .receive)
  | .p1 => .ok (.rflag .pr)
  | .p2 => .ok (.rflag .fne)
  | .p3 => .ok (.rreg s.cfg.addrFifo)
  | .t1m => .ok (.setmode .standby)
  | .t1c => .ok .clrfifo
  | .t2r => .ok (.rreg s.cfg.addrSyncCfg)
  | .t2w => .ok (.wreg s.cfg.addrSyncCfg Config.syncDisabled)
  | .t3r => .ok (.rreg s.cfg.addrPlen)
  | .t3w => .ok (.wreg s.cfg.addrPlen s.txLen)
  | .t4 => .ok (.fifowr s.txLen)
  | .t5m => .ok (.setmode .transmit)
  | .t5p => .ok (.rflag .ps)
  | .t6m => .ok (.setmode .standby)
  | .t6w => microRestore s.cfg.addrSyncCfg s.svSync
  | .t7w => microRestore s.cfg.addrPlen s.svPlen
  | .t7m => .ok (.setmode .receive)

/-- `s.seq <- l` (R10). -/
def State.goto (l : Label) (s : State) : State := { s with seq := l }

/-- On to the sync-value writes; `idx` holds the index of the byte to write (R28, R153). DESIGN CHOICE (log 11): past the
last byte, at I4 and I5, `idx` keeps that byte's index, where the spec gives no value. -/
def State.gotoI3v (i : Nat) (s : State) : State :=
  if h : i < 8 then
    if i < s.syncLen.toNat then { s with seq := .i3v ⟨i, h⟩, idx := BitVec.ofNat 8 i } else { s with seq := .i4 }
  else { s with seq := .i4 }

/-- On to entry `k` of CFG, `idx` its index (R28), or past its end to I3c (R146). The compare is the order of bytes of
R98 (g) for every `P` that `Params.sizeOk` allows. DESIGN CHOICE (log 11): at I3c `idx` keeps the last entry's index, where
the spec gives no value. -/
def State.gotoI2 (k : Nat) (s : State) : State :=
  if k < s.cfgLength then { s with seq := .i2 k, idx := BitVec.ofNat 8 k } else { s with seq := .i3c }

/-- Label I5's end: `g.configured <- true`, `Done()` (R155); `idx` is then not fixed (R28; log 11). -/
def State.finishInit (s : State) : State :=
  { s.finish none with gConfigured := true, idx := Config.idxAfterInit s.drawn, drawn := s.drawn + 1 }

/-- POLL's end: `Done(received, n)` with the result latches written (R167, R170). -/
def State.finishPoll (received : Bool) (n : Byte) (s : State) : State :=
  { s.finish (some (received, n)) with resReceived := received, resLen := n }

/-- The loop test of R168: the count first, no transaction. -/
def State.pollLoop (s : State) : State :=
  if s.cap ≤ s.idx then s.finishPoll true s.idx else s.goto .p2

/-- Label P3's `BufWr(n, v); n <- n + 1` and the loop test (R166, R169). -/
def State.storeByte (v : Byte) (s : State) : State :=
  State.pollLoop { s.bufWr s.idx.toNat v with idx := s.idx + 1 }

/-- What follows the micro-operation of a label, in the state it left: the third column of the tables of R146, R166 and
R181, with what a label does beside its transaction. -/
def advance (l : Label) (s : State) : Result :=
  match l with
  | .idle => .next s
  | .i1w => .next (s.goto .i1r)
  | .i1r => .next (s.goto (if s.sentinelRead Config.sentinelA then .i1w2 else .i1w))
  | .i1w2 => .next (s.goto .i1r2)
  | .i1r2 => .next (if s.sentinelRead Config.sentinelB then s.gotoI2 0 else s.goto .i1w2)
  | .i2 k => .next (s.gotoI2 (k + 1))
  | .i3c => .next (s.gotoI3v 0)
  | .i3v i => .next (s.gotoI3v (i.val + 1))
  | .i4 => .next (s.goto .i5)
  | .i5 => .next s.finishInit
  | .p1 => .next (if s.flagResult .pr then s.pollLoop else s.finishPoll false 0)
  | .p2 => .next (if s.flagResult .fne then s.goto .p3 else s.finishPoll true s.idx)
  | .p3 =>
    match saved s.rxd with
    | .ok v => .next (s.storeByte v)
    | .error f => .fault f
  | .t1m => .next (s.goto .t1c)
  | .t1c => .next (s.goto (if s.suppress then .t2r else .t3r))
  | .t2r => .next (State.goto .t2w { s with svSync := s.rxd })
  | .t2w => .next (s.goto .t3r)
  | .t3r => .next (State.goto .t3w { s with svPlen := s.rxd })
  | .t3w => .next (s.goto .t4)
  | .t4 => .next (s.goto .t5m)
  | .t5m => .next (s.goto .t5p)
  | .t5p => .next (s.goto (if s.flagResult .ps then (if s.suppress then .t6m else .t7w) else .t5p))
  | .t6m => .next (s.goto .t6w)
  | .t6w => .next (s.goto .t7w)
  | .t7w => .next (s.goto .t7m)
  | .t7m => .next (s.finish none)

end Sys2Proof.Machine
end

