-- ==== Sys2Proof/Machine/HostPort.lean ====
section
/-! DEFINITION. One step: the host's next move (30_encoding.md R90, R94; 60_exceptions.md R216), else one step of the
master, which is one micro-operation while a command runs (R118, D33) and nothing while it is Idle (R217, R230). -/

namespace Sys2Proof.Machine

/-- One micro-operation of the command in progress: hold while another user owns the bus (R73), else run the label's
micro-operation and follow its table. -/
def seqStep (s : State) : Result :=
  if s.busHeld then .next s.hold
  else
    match microOp s.seq s with
    | .error f => .fault f
    | .ok i =>
      match exec i s with
      | .next t => advance s.seq t
      | .fault f => .fault f
      | .refused r => .refused r

/-- "while idle it simply does nothing with `cs_n = 1`" (R217); busy, it runs. -/
def masterStep (s : State) : Result := if s.seq = .idle then .next s else seqStep s

/-- Is an instruction a bus frame (level B, R80)? -/
def isFrame : Instr → Bool
  | .w _ _ => true
  | .r _ _ => true
  | .bw _ _ => true
  | .wreg _ _ => false
  | .rreg _ => false
  | .fifowr _ => false
  | .setmode _ => false
  | .clrfifo => false
  | .rflag _ => false
  | .init _ _ _ _ => false
  | .poll _ => false
  | .tx _ _ => false
  | .reserved => false

/-- A word laid before the master: a command is a `Start` (R90), a bracket a raw frame, taken in Idle and kept waiting
while the bus is another's (log 7). `rest` is the host's queue after this move. DESIGN CHOICE (log 23): a word that does not
decode is refused as malformed whether the master is busy or not, since it is no `Start` of any command. -/
def issueWord (word : PortWord) (rest : List HostMove) (s : State) : Result :=
  match decode word with
  | .error e => .refused (.malformedWord e)
  | .ok i =>
    if isFrame i then
      if s.seq ≠ .idle then .fault .cmdWhileBusy
      else if s.busHeld then .next s.hold
      else exec i { s with host := rest }
    else exec i { s with host := rest }

/-- The buffer index each data byte of a frame is read from: FIFOWR's are 0, 1, ... (R116), no other frame reads the
buffer. -/
def dataIndex (i : Instr) (j : Nat) : Option Nat :=
  match i with
  | .fifowr _ => some j
  | .w _ _ => none
  | .r _ _ => none
  | .bw _ _ => none
  | .wreg _ _ => none
  | .rreg _ => none
  | .setmode _ => none
  | .clrfifo => none
  | .rflag _ => none
  | .init _ _ _ _ => none
  | .poll _ => none
  | .tx _ _ => none
  | .reserved => none

/-- The exchanges of a frame, in order: the address byte, then the data bytes, each with the buffer index it is read
from. -/
def State.exchanges (i : Instr) (s : State) : List (Option Nat × Byte) :=
  match i.frameBytes s.cfg ((List.range 255).map s.bufByte) with
  | [] => []
  | b :: bs => (none, b) :: bs.mapIdx fun j d => (dataIndex i j, d)

/-- One exchange of a frame that will be cut. -/
def State.exchange (s : State) : Option Nat × Byte → State
  | (none, b) => s.xfer b
  | (some j, b) => (s.emit [.bufRd j b]).xfer b

/-- A bracket cut short after `n` exchanges: `cs_n` goes to 1 and the bus is released at once, and the chip is unknown
afterwards (R232, log 15). -/
def State.cutBracket (n : Nat) (i : Instr) (s : State) : State :=
  (((s.exchanges i).take n).foldl State.exchange s.openBracket).closeBracket.forgetChip

/-- A reset inside the next transaction, after `n` of its exchanges; between transactions it is the plain reset
(R232). -/
def State.resetInside (n : Nat) (s : State) : State :=
  if s.busHeld then s.resetMaster
  else
    match microOp s.seq s with
    | .ok i => (s.cutBracket n i).resetMaster
    | .error _ => s.resetMaster

/-- Put bytes into the caller's buffer: its other bytes are unknown again (R43; log 12). -/
def State.load (data : List Byte) (s : State) : State :=
  { s with buffer := Memory.ofBytes 0 data, bufEpoch := s.bufEpoch + 1 }

/-- The host's next move, or one step of the master (log 5). -/
def hostStep (s : State) : Result :=
  match s.host with
  | [] => masterStep s
  | .issue word :: rest => issueWord word rest s
  | .await :: rest => if s.seq = .idle then .next { s with host := rest } else masterStep s
  | .pause :: rest => masterStep { s with host := rest }
  | .load data :: rest => if s.seq = .idle then .next (State.load data { s with host := rest }) else masterStep s
  | .reset :: rest => .next (State.resetMaster { s with host := rest })
  | .resetIn n :: rest => .next (State.resetInside n { s with host := rest })

/-- The schedule with the refusals before its first grant left out; a schedule that grants nothing becomes one grant. -/
def firstGrant (grants : List Bool) (after : GrantsEnd) : List Bool :=
  match grants.dropWhile (! ·), after with
  | [], .never => [true]
  | gs, _ => gs

/-- Lay a word before the master so that the very next step runs it: Idle, the host's next move, the bus granted
(log 16). -/
def State.placeWord (word : PortWord) (s : State) : State :=
  { s with
    seq := .idle
    cmd := .none
    arbiter := firstGrant s.arbiter s.arbiterEnd
    host := .issue word :: s.host }

end Sys2Proof.Machine
end

