-- ==== Sys2Proof/Machine/Step.lean ====
section
/-! DEFINITION. The step and the placing of a word of spec/opcode_table.json. -/

namespace Sys2Proof.Machine

/-- One step of the machine: one move of the host, or one transaction of the master (D33). -/
def step (s : State) : Host.Outcome State Fault Refusal := hostStep s

/-- The state with that word as what the next step runs (log 16, log 22). -/
def State.withFetchWord (s : State) (nbits w : Nat) : State := s.placeWord (tableWord nbits w)

end Sys2Proof.Machine
end

