-- ==== Sys2Proof/Machine/Monitor.lean ====
section
/-! DEFINITION. Reading a trace back (30_encoding.md R97) in the transaction shorthand of 00_scope.md R11, as a bus monitor
does. Claims use it; no step does. -/

namespace Sys2Proof.Machine

/-- A transaction in the shorthand of R11: `W(a, v)`, `R(a) = v`, `BW(a, [..])`. -/
inductive Txn where
  | w (a : Addr) (v : Byte)
  | r (a : Addr) (v : Byte)
  | bw (a : Addr) (data : List Byte)
  deriving DecidableEq, Repr

/-- The bytes gathered in the bracket that is open, each exchange as (sent, returned), after one more event. -/
def gather (cur : Option (List (Byte × Byte))) (e : Event) : Option (List (Byte × Byte)) :=
  match e with
  | .csLow => some []
  | .x t r => cur.map (· ++ [(t, r)])
  | .csHigh => none
  | _ => cur

/-- The bracket that an event closes. -/
def closed (cur : Option (List (Byte × Byte))) (e : Event) : List (List (Byte × Byte)) :=
  match e with
  | .csHigh => cur.toList
  | _ => []

/-- The brackets of a trace: the exchanges between `CsLow` and `CsHigh`; `cur` holds the bracket that is open. -/
def brackets : List Event → Option (List (Byte × Byte)) → List (List (Byte × Byte))
  | [], _ => []
  | e :: es, cur => closed cur e ++ brackets es (gather cur e)

/-- R97: what one bracket is, from the bytes sent in it and, for a read, the byte returned second. -/
def readBracket (xs : List (Byte × Byte)) : Option Txn :=
  match decodeBracket (xs.map Prod.fst), xs with
  | .ok (.w a v), _ => some (.w a v)
  | .ok (.r a _), [_, (_, r1)] => some (.r a r1)
  | .ok (.bw a data), _ => some (.bw a data)
  | _, _ => none

/-- The transactions of a trace, in order; a bracket the master never produces reads as none. -/
def transactions (es : List Event) : List (Option Txn) := (brackets es none).map readBracket

/-- The buffer write an event is. -/
def bufWrite : Event → Option (Nat × Byte)
  | .bufWr i b => some (i, b)
  | _ => none

/-- The buffer writes of a trace, in order (R43, R171). -/
def bufWrites (es : List Event) : List (Nat × Byte) := es.filterMap bufWrite

/-- Where the chip-select bracket stands (R115). -/
inductive BusPhase where
  /-- The master does not own the bus. -/
  | free
  /-- After `Acq`, before `CsLow`. -/
  | owned
  /-- Between `CsLow` and `CsHigh`. -/
  | selected
  /-- After `CsHigh`, before `Rel`. -/
  | released
  deriving DecidableEq, Repr

/-- An event that may stand in one phase only, and the phase after it. -/
def BusPhase.only (p q r : BusPhase) : Option BusPhase := if p = q then some r else none

/-- The events R115 and R240 allow in each phase. -/
def BusPhase.after (p : BusPhase) (e : Event) : Option BusPhase :=
  match e with
  | .start _ => p.only .free .free
  | .acq => p.only .free .owned
  | .csLow => p.only .owned .selected
  | .x _ _ => p.only .selected .selected
  | .csHigh => p.only .selected .released
  | .rel => p.only .released .free
  | .bufRd _ _ => p.only .selected .selected
  | .bufWr _ _ => p.only .free .free
  | .done _ => p.only .free .free

/-- The phase after a list of events, or none where one of them breaks the bracket discipline. -/
def BusPhase.run : BusPhase → List Event → Option BusPhase
  | p, [] => some p
  | p, e :: es =>
    match p.after e with
    | some q => BusPhase.run q es
    | none => none

/-- Every bracket of the trace is opened on an owned bus, closed before the bus is released, and none is open (R115,
R240). -/
def traceOk (es : List Event) : Bool := BusPhase.run .free es == some .free

end Sys2Proof.Machine
end

