-- ==== Sys2Proof/Machine/Premises.lean ====
section
/-! DEFINITION. What a claim may assume of the chip: the six named assumptions E-PLAIN to E-MODE (20_memory.md R62 to R68),
each a predicate on what a chip does from some moment on, transactions of the master and moves of its own alike. No step
reads any of it: the oracle is under no law (R13, D34; log 2). -/

namespace Sys2Proof.Machine

/-- One thing that happens to the chip (R32, R61, R215). -/
inductive ChipAct where
  /-- A transaction of the master, with the byte the chip returned if it is a read. -/
  | txn (t : Txn)
  /-- A frame has been received, its bytes now in the FIFO. -/
  | receive (frame : List Byte)
  /-- Anything else the chip does of its own. -/
  | own
  /-- A reset of the chip (R63). -/
  | reset
  deriving DecidableEq, Repr

/-- What R32 and R33 say the chip holds besides its registers: the FIFO, oldest byte first, the three flags, and the mode it
has actually entered, none while it is in no mode of R9. -/
structure ChipView where
  fifo : List Byte
  pr : Bool
  fne : Bool
  ps : Bool
  mode : Option Mode
  deriving DecidableEq, Repr

/-- A flag of the chip (R33). -/
def ChipView.flag (v : ChipView) : Flag → Bool
  | .pr => v.pr
  | .fne => v.fne
  | .ps => v.ps

/-- A chip over time: `act n` leads from `view n` to `view (n + 1)`. There is no clock: "after a finite time" is after
finitely many acts (D26). -/
structure ChipRun where
  view : Nat → ChipView
  act : Nat → ChipAct

/-- The bytes a transaction gives to register a, in order. -/
def Txn.given (a : Addr) : Txn → List Byte
  | .w b v => if b = a then [v] else []
  | .r _ _ => []
  | .bw b data => if b = a then data else []

/-- The bytes the master gives to register a in an act. -/
def ChipAct.given (a : Addr) : ChipAct → List Byte
  | .txn t => t.given a
  | .receive _ => []
  | .own => []
  | .reset => []

/-- The byte returned, where the act is a read of register a. -/
def ChipAct.reads (a : Addr) : ChipAct → Option Byte
  | .txn (.r b v) => if b = a then some v else none
  | .txn (.w _ _) => none
  | .txn (.bw _ _) => none
  | .receive _ => none
  | .own => none
  | .reset => none

/-- The byte most recently written to register a by the master before act `n`, none where there is none or a reset of the
chip intervened (R63). -/
def ChipRun.lastGiven (h : ChipRun) (a : Addr) : Nat → Option Byte
  | 0 => none
  | n + 1 => if h.act n = .reset then none else ((h.act n).given a).getLast?.or (h.lastGiven a n)

/-- The number of reads of register a among the `k` acts from `m` on. -/
def ChipRun.readCount (h : ChipRun) (a : Addr) (m : Nat) : Nat → Nat
  | 0 => 0
  | k + 1 => h.readCount a m k + (if ((h.act (m + k)).reads a).isSome then 1 else 0)

/-- `E-PLAIN(a)` (R63): a read of register a returns the byte most recently written to a by the master, if no reset of the
chip intervened. -/
def ChipRun.ePlain (a : Addr) (h : ChipRun) : Prop :=
  ∀ (n : Nat) (b v : Byte), (h.act n).reads a = some b → h.lastGiven a n = some v → b = v

/-- The chip sets a flag in act `n`. -/
def ChipRun.sets (h : ChipRun) (f : Flag) (n : Nat) : Prop := (h.view n).flag f = false ∧ (h.view (n + 1)).flag f = true

/-- `E-CLR` (R64): after the clearing write the chip's FIFO is empty and the three flags are clear, and each reads as clear
until the chip sets it again. What the chip does up to the byte exchange of a read counts as before it (R61 (c)). -/
def ChipRun.eClr (p : Params) (h : ChipRun) : Prop :=
  ∀ n : Nat, h.act n = .txn (.w p.clrAddr p.clrVal) →
    (h.view (n + 1)).fifo = [] ∧
    ∀ f : Flag, (h.view (n + 1)).flag f = false ∧
      ∀ (k : Nat) (b : Byte), n < k → (∀ j, n < j → j ≤ k → ¬ h.sets f j) →
        (h.act k).reads (p.flag f).addr = some b → flagSet p f b = false

/-- Before act `n` the configured fixed length is one the FIFO can hold, 1 to 66 bytes (R65; U6). -/
def ChipRun.lengthOk (p : Params) (h : ChipRun) (n : Nat) : Prop :=
  ∃ len, h.lastGiven p.addrPlen n = some len ∧ 1 ≤ len.toNat ∧ len.toNat ≤ Config.fifoCap

/-- Act `m` is the last receipt of a frame before act `n`. -/
def ChipRun.received (h : ChipRun) (m n : Nat) (frame : List Byte) : Prop :=
  m < n ∧ h.act m = .receive frame ∧ ∀ l, m < l → l < n → ∀ later, h.act l ≠ .receive later

/-- E-RXFIFO speaks of act `n`: the configured length is within its bound, and so it was when the last frame came, which found
the FIFO empty. Under another length no law holds (U6), and where a frame comes while bytes are left in the FIFO it is any
value (U13). -/
def ChipRun.oneFrame (p : Params) (h : ChipRun) (n : Nat) : Prop :=
  h.lengthOk p n ∧ ∀ m frame, h.received m n frame → h.lengthOk p m ∧ (h.view m).fifo = []

/-- Before act `n` the FIFO holds the bytes of the frame last received, one of the fixed length configured when it came, but
for those that reads of the FIFO have taken since; at least one is there (R65). -/
def ChipRun.holdsFrame (p : Params) (h : ChipRun) (n : Nat) : Prop :=
  ∃ (m : Nat) (frame : List Byte) (len : Byte), h.received m n frame ∧
    h.lastGiven p.addrPlen m = some len ∧ frame.length = len.toNat ∧
    (h.view n).fifo = frame.drop (h.readCount p.addrFifo (m + 1) (n - (m + 1))) ∧ (h.view n).fifo ≠ []

/-- `E-RXFIFO` (R65): in Receive mode, payload ready reads set only while the FIFO holds the bytes of one received frame,
FIFO-not-empty reads set exactly while the FIFO holds a byte, and each read of the FIFO returns and removes the oldest.
Where `ChipRun.oneFrame` does not hold, none of it is assumed. -/
def ChipRun.eRxFifo (p : Params) (h : ChipRun) : Prop :=
  ∀ (n : Nat) (b : Byte), (h.view n).mode = some .receive → h.oneFrame p n →
    ((h.act n).reads p.flagPr.addr = some b → flagSet p .pr b = true → h.holdsFrame p n) ∧
    ((h.act n).reads p.flagFne.addr = some b → (flagSet p .fne b = true ↔ (h.view n).fifo ≠ [])) ∧
    ∀ (x : Byte) (xs : List Byte), (h.act n).reads p.addrFifo = some b → (h.view n).fifo = x :: xs →
      b = x ∧ (h.view (n + 1)).fifo = xs

/-- `E-TXFIFO` (R66): in Standby with an empty FIFO a burst of at most 66 bytes leaves exactly them, in order. A burst of one
byte is a W frame on the bus (R84). Nothing is assumed of a longer one. -/
def ChipRun.eTxFifo (p : Params) (h : ChipRun) : Prop :=
  ∀ (n : Nat) (data : List Byte),
    (h.act n = .txn (.bw p.addrFifo data) ∨ ∃ b, data = [b] ∧ h.act n = .txn (.w p.addrFifo b)) →
    (h.view n).mode = some .standby → (h.view n).fifo = [] → data.length ≤ Config.fifoCap → (h.view (n + 1)).fifo = data

/-- An act that changes the mode: a write of the mode register "starts a mode change in the chip" (R59), and a reset of the
chip loses it. -/
def ChipAct.changesMode (p : Params) (x : ChipAct) : Bool := x == .reset || x.given p.addrMode != []

/-- What ends packet sent: "a mode change or a CLRFIFO write" (R67). -/
def ChipAct.endsSent (p : Params) (x : ChipAct) : Bool := x.changesMode p || (x.given p.clrAddr).contains p.clrVal

/-- `E-SENT` (R67): once Transmit is written while the FIFO holds n bytes, 1 to 66, and the payload-length register holds n,
then after a finite time packet sent reads set, and stays set until a mode change or a clearing write. -/
def ChipRun.eSent (p : Params) (h : ChipRun) : Prop :=
  ∀ (k : Nat) (len : Byte), h.act k = .txn (.w p.addrMode p.valTransmit) → (h.view k).fifo.length = len.toNat →
    1 ≤ len.toNat → len.toNat ≤ Config.fifoCap → h.lastGiven p.addrPlen k = some len →
    ∃ m, k < m ∧ ∀ (j : Nat) (b : Byte), m ≤ j → (∀ l, k < l → l < j → (h.act l).endsSent p = false) →
      (h.act j).reads p.flagPs.addr = some b → flagSet p .ps b = true

/-- `E-MODE` (R68): the chip enters the mode last written to its mode register after a finite time, and is in it until the
mode is changed. How long it takes is the oracle's (U17). -/
def ChipRun.eMode (p : Params) (h : ChipRun) : Prop :=
  ∀ (k : Nat) (m : Mode), h.act k = .txn (.w p.addrMode (p.modeVal m)) →
    ∃ j, k < j ∧ ∀ i, j ≤ i → (∀ l, k < l → l < i → (h.act l).changesMode p = false) → (h.view i).mode = some m

end Sys2Proof.Machine
end

