-- ==== Sys2Proof/Machine/Chip.lean ====
section
/-! DEFINITION. The reference chip SimChip of 95_test_vectors.md H1, generalised from binding B0 to any `P` (log 26), what
it means that it answers a trace, and SimChip as one of the chips that Machine/Premises.lean speaks of. No step reads any of
it (R13, D34; log 2). -/

namespace Sys2Proof.Machine

/-- SimChip's state (H1). -/
structure Chip where
  /-- `reg[0..127]`; a cell not listed holds 0x00. -/
  reg : Memory
  fifo : List Byte
  pr : Bool
  ps : Bool
  /-- A setting: the packet-sent spin takes `delay + 1` reads. -/
  delay : Nat
  cnt : Nat
  /-- The packets sent. -/
  air : List (List Byte)
  /-- A setting: the reads of the scratch register still to fail. -/
  miss : Nat
  deriving DecidableEq, Repr

/-- SimChip at its start (H1). -/
def Chip.start (delay miss : Nat) : Chip where
  reg := []
  fifo := []
  pr := false
  ps := false
  delay := delay
  cnt := 0
  air := []
  miss := miss

/-- `reg[a]`. -/
def Chip.cell (c : Chip) (a : Addr) : Byte := (c.reg.read? a.toNat).getD 0x00

/-- Write of v to a (H1). -/
def Chip.write (p : Params) (a : Addr) (v : Byte) (c : Chip) : Chip :=
  if a = p.addrFifo then { c with fifo := c.fifo ++ [v] }
  else if isClear p a v then { c with fifo := [], pr := false, ps := false }
  else if a = p.addrMode then
    { c with
      reg := c.reg.write a.toNat v
      ps := false
      cnt := if v = p.valTransmit then c.delay else c.cnt }
  else { c with reg := c.reg.write a.toNat v }

/-- A read of a flag register lets a transmission go on (H1). -/
def Chip.transmit (p : Params) (c : Chip) : Chip :=
  if c.cell p.addrMode = p.valTransmit ∧ c.ps = false then
    if c.cnt = 0 then { c with air := c.air ++ [c.fifo], fifo := [], ps := true } else { c with cnt := c.cnt - 1 }
  else c

/-- A flag's bits in the register at a, where it stands there and is set. -/
def Chip.flagBits (a : Addr) (l : FlagLoc) (set : Bool) : Byte := if a = l.addr ∧ set then l.mask else 0x00

/-- The byte a flag register holds (H1; R33). -/
def Chip.flags (p : Params) (a : Addr) (c : Chip) : Byte :=
  Chip.flagBits a p.flagPr c.pr ||| Chip.flagBits a p.flagFne (!c.fifo.isEmpty) ||| Chip.flagBits a p.flagPs c.ps

/-- Is a the address of a flag? -/
def isFlagAddr (p : Params) (a : Addr) : Bool := a == p.flagPr.addr || a == p.flagFne.addr || a == p.flagPs.addr

/-- Read of a (H1): the byte returned and the chip afterwards. -/
def Chip.read (p : Params) (a : Addr) (c : Chip) : Byte × Chip :=
  if a = p.addrFifo then
    (c.fifo.headD 0x00, { c with fifo := c.fifo.tail, pr := if c.fifo.tail.isEmpty then false else c.pr })
  else if isFlagAddr p a then ((c.transmit p).flags p a, c.transmit p)
  else if a = p.addrScratch ∧ 0 < c.miss then (0x00, { c with miss := c.miss - 1 })
  else (c.cell a, c)

/-- `Inject(d)`: a frame is received, in Receive mode only (H1). -/
def Chip.inject (p : Params) (d : List Byte) (c : Chip) : Chip :=
  if c.cell p.addrMode = p.valReceive then { c with fifo := d, pr := true } else c

/-- Does the chip answer a transaction as the trace says, and what is it afterwards? -/
def Chip.answers (p : Params) (c : Chip) : Txn → Option Chip
  | .w a v => some (c.write p a v)
  | .r a v => if (c.read p a).1 = v then some (c.read p a).2 else none
  | .bw a data => some (data.foldl (fun c v => c.write p a v) c)

/-- Does the chip answer all of the transactions of a trace? A claim about a live chip takes this as its premise. -/
def Chip.explains (p : Params) : Chip → List (Option Txn) → Option Chip
  | c, [] => some c
  | c, some t :: ts =>
    match c.answers p t with
    | some c' => Chip.explains p c' ts
    | none => none
  | _, none :: _ => none

/-- What SimChip holds, as R32 and R33 name it. It is in the mode last written at once. -/
def Chip.view (p : Params) (c : Chip) : ChipView where
  fifo := c.fifo
  pr := c.pr
  fne := !c.fifo.isEmpty
  ps := c.ps
  mode :=
    if c.cell p.addrMode = p.valStandby then some .standby
    else if c.cell p.addrMode = p.valTransmit then some .transmit
    else if c.cell p.addrMode = p.valReceive then some .receive
    else none

/-- SimChip after an act, where it can be so: a frame is received in Receive mode only. H1 gives it no reset; it starts
over. -/
def Chip.after (p : Params) (c : Chip) : ChipAct → Option Chip
  | .txn t => c.answers p t
  | .receive frame => if c.cell p.addrMode = p.valReceive then some (c.inject p frame) else none
  | .own => some c
  | .reset => some (Chip.start c.delay c.miss)

/-- A chip over time that is SimChip, `c n` its state before act `n`. -/
def Chip.plays (p : Params) (c : Nat → Chip) (h : ChipRun) : Prop :=
  ∀ n, h.view n = (c n).view p ∧ (c n).after p (h.act n) = some (c (n + 1))

end Sys2Proof.Machine
end

