-- ==== Sys2Proof/Safety.lean ====
section
/-! DEFINITION. What claims speak of: the invariants of the sequences (41_mode_control.md R134, 70_reset_and_hazards.md R240
to R247), the host's duties (R216), and the named assumptions about the chip that a claim may take as premises
(20_memory.md R62 to R68). None is used by the step. -/

namespace Sys2Proof.Machine

/-- The operand latches of INIT hold what `Start` accepts (R24, R95). -/
def State.initLatched (s : State) : Bool := 1 ≤ s.syncLen.toNat && s.syncLen.toNat ≤ 8

/-- The mode last written is this one (R34). -/
def State.inMode (m : Mode) (s : State) : Bool := s.gMode == .known m

/-- The sync configuration is saved where it is to be restored (R25, R183, R189). -/
def State.syncSaved (s : State) : Bool := !s.suppress || s.svSync.isSome

/-- What holds at each label: the command it belongs to (R27), the ghost mode (R134), the counters within their bounds
(R28, R146, R168) and the latches written that a later label reads (R25). -/
def State.labelOk (s : State) : Bool :=
  match s.seq with
  | .idle => s.cmd == .none
  | .i1w => s.cmd == .init && s.initLatched
  | .i1r => s.cmd == .init && s.initLatched
  | .i1w2 => s.cmd == .init && s.initLatched
  | .i1r2 => s.cmd == .init && s.initLatched
  | .i2 k => s.cmd == .init && s.initLatched && k < s.cfgLength
  | .i3c => s.cmd == .init && s.initLatched
  | .i3v i => s.cmd == .init && s.initLatched && i.val < s.syncLen.toNat
  | .i4 => s.cmd == .init && s.initLatched
  | .i5 => s.cmd == .init && s.initLatched
  | .p1 => s.cmd == .poll
  | .p2 => s.cmd == .poll && s.idx < s.cap
  | .p3 => s.cmd == .poll && s.idx < s.cap
  | .t1m => s.cmd == .tx
  | .t1c => s.cmd == .tx && s.inMode .standby
  | .t2r => s.cmd == .tx && s.inMode .standby && s.suppress
  | .t2w => s.cmd == .tx && s.inMode .standby && s.suppress && s.svSync.isSome
  | .t3r => s.cmd == .tx && s.inMode .standby && s.syncSaved
  | .t3w => s.cmd == .tx && s.inMode .standby && s.syncSaved && s.svPlen.isSome
  | .t4 => s.cmd == .tx && s.inMode .standby && s.syncSaved && s.svPlen.isSome
  | .t5m => s.cmd == .tx && s.inMode .standby && s.syncSaved && s.svPlen.isSome
  | .t5p => s.cmd == .tx && s.inMode .transmit && s.syncSaved && s.svPlen.isSome
  | .t6m => s.cmd == .tx && s.inMode .transmit && s.suppress && s.svSync.isSome && s.svPlen.isSome
  | .t6w => s.cmd == .tx && s.inMode .standby && s.suppress && s.svSync.isSome && s.svPlen.isSome
  | .t7w => s.cmd == .tx && s.inMode (if s.suppress then .standby else .transmit) && s.svPlen.isSome
  | .t7m => s.cmd == .tx && s.inMode (if s.suppress then .standby else .transmit)

/-- Outside a transaction chip-select is released and the bus is not the master's (R21, R22). -/
def State.busIdle (s : State) : Bool := s.csN == 1 && !s.ownsBus

/-- The chip ledger and the buffer are memories in canonical form, the ledger's addresses within 0 to 127 (R50). -/
def State.memOk (s : State) : Bool := s.regs.wf && s.buffer.wf && s.regs.all fun c => c.1 < 128

/-- The invariant of the machine, kept by every step. -/
def State.inv (s : State) : Bool := s.busIdle && s.labelOk && s.memOk && traceOk s.trace

/-- The arbiter's weak fairness, a premise of every claim that a command goes on (R73, R210; D26, U18): a master that keeps
asking gets the bus. -/
def State.fair (s : State) : Bool := s.arbiterEnd == .granted

/-- The host makes no move and no other user contends for the bus: the master runs alone. -/
def State.alone (s : State) : Bool := s.host.isEmpty && s.arbiter.isEmpty && s.fair

/-- TX's length is one the document covers (R186, R243). -/
def txLengthOk (n : Byte) : Bool := 1 ≤ n.toNat && n.toNat ≤ Config.fifoCap

/-- The byte the chip will return in the k-th exchange from now. -/
def State.answerAt (k : Nat) (s : State) : Byte :=
  match s.rx[k]? with
  | some b => b
  | none => Config.chipByte (s.drawn + (k - s.rx.length))

/-- The events of `W(a, v)` (R11, R110), with the bytes the chip is about to answer. -/
def writeEvents (a : Addr) (v : Byte) (s : State) : List Event :=
  [.acq, .csLow, .x (addrByte true a) (s.answerAt 0), .x v (s.answerAt 1), .csHigh, .rel]

/-- The events of `R(a) = v` (R11, R113), `d` the dummy byte sent. -/
def readEvents (a : Addr) (d : Byte) (s : State) : List Event :=
  [.acq, .csLow, .x (addrByte false a) (s.answerAt 0), .x d (s.answerAt 1), .csHigh, .rel]

/-- The events of FIFOWR's bracket for `n` bytes of the buffer (R116). -/
def fifoEvents (n : Nat) (s : State) : List Event :=
  [.acq, .csLow, .x (addrByte true s.cfg.addrFifo) (s.answerAt 0)]
    ++ (List.range n).flatMap (fun j => [.bufRd j (s.bufByte j), .x (s.bufByte j) (s.answerAt (j + 1))])
    ++ [.csHigh, .rel]

/-- The events of a burst frame with its data given (R11, R83). -/
def burstEvents (a : Addr) (data : List Byte) (s : State) : List Event :=
  [.acq, .csLow, .x (addrByte true a) (s.answerAt 0)]
    ++ data.mapIdx (fun j b => .x b (s.answerAt (j + 1)))
    ++ [.csHigh, .rel]

/-- What a bracket of `n` exchanges leaves whatever it carries: chip-select released, the bus given up (R115), one grant
used, `n` answers taken, its events in the trace. -/
def State.afterBracket (n : Nat) (es : List Event) (s : State) : State :=
  { s with
    csN := 1
    ownsBus := false
    arbiter := s.arbiter.tail
    rx := s.rx.drop n
    drawn := s.drawn + (n - s.rx.length)
    trace := s.trace ++ es }

/-- The state R110 gives after `WREG a, v`. -/
def State.wrote (a : Addr) (v : Byte) (s : State) : State :=
  { s.afterBracket 2 (writeEvents a v s) with
    regs := s.regs.write a.toNat v
    fifoIn := if isClear s.cfg a v then [] else if a = s.cfg.addrFifo then s.fifoIn ++ [v] else s.fifoIn
    fifoOut := if isClear s.cfg a v then [] else s.fifoOut }

/-- The state R113 gives after `RREG a`, the dummy byte `d` sent. -/
def State.didRead (a : Addr) (d : Byte) (s : State) : State :=
  { s.afterBracket 2 (readEvents a d s) with
    rxd := some (s.answerAt 1)
    fifoOut := if a = s.cfg.addrFifo then s.fifoOut ++ [s.answerAt 1] else s.fifoOut }

/-- The state R116 gives after `FIFOWR n`: `idx` ends equal to `n`, and `n` bytes of the buffer are pushed in index
order. -/
def State.sentBuffer (n : Nat) (s : State) : State :=
  { s.afterBracket (n + 1) (fifoEvents n s) with
    idx := BitVec.ofNat 8 n
    regs := if n = 0 then s.regs else s.regs.write s.cfg.addrFifo.toNat (s.bufByte (n - 1))
    fifoIn := s.fifoIn ++ (List.range n).map s.bufByte }

/-- The register a burst writes: the last of its bytes stays last written, an empty burst writes nothing (R56, R83). -/
def burstRegs (a : Addr) (data : List Byte) (m : Memory) : Memory :=
  match data.getLast? with
  | some b => m.write a.toNat b
  | none => m

/-- The state after a BW frame with its data given (R83, R116; log 21). -/
def State.sentBurst (a : Addr) (data : List Byte) (s : State) : State :=
  { s.afterBracket (data.length + 1) (burstEvents a data s) with
    idx := BitVec.ofNat 8 data.length
    regs := burstRegs a data s.regs
    fifoIn :=
      if data.any (isClear s.cfg a) then [] else if a = s.cfg.addrFifo then s.fifoIn ++ data else s.fifoIn
    fifoOut := if data.any (isClear s.cfg a) then [] else s.fifoOut }

/-- What E-PLAIN(a) (R63, `ChipRun.ePlain`) says of the next transaction, a read of `a`: the chip returns the byte the master
last wrote there. -/
def State.ePlain (a : Addr) (s : State) : Bool := s.regs.read? a.toNat == some (s.answerAt 1)

/-- The answers to come are those that drain the bytes `d`, for a POLL that starts now with room for `cap` bytes: payload
ready reads set; before each of the first `cap` bytes FIFO-not-empty reads set and the FIFO then gives that byte; once all of
`d` is drained FIFO-not-empty reads clear. Each read frame takes two exchanges. Under E-RXFIFO (R65, `ChipRun.eRxFifo`) a
complete frame `d` in the FIFO is drained so. -/
def State.drains (d : List Byte) (cap : Nat) (s : State) : Prop :=
  flagSet s.cfg .pr (s.answerAt 1) = true ∧
  (∀ j, j < min d.length cap →
    flagSet s.cfg .fne (s.answerAt (4 * j + 3)) = true ∧ d[j]? = some (s.answerAt (4 * j + 5))) ∧
  (d.length < cap → flagSet s.cfg .fne (s.answerAt (4 * d.length + 3)) = false)

/-- The answers to come end the spin that starts now: packet sent reads clear in the first `n` read frames and set in the
next. Under E-SENT (R67, `ChipRun.eSent`) there is such an `n`. -/
def State.sentAfter (n : Nat) (s : State) : Prop :=
  (∀ j, j < n → flagSet s.cfg .ps (s.answerAt (2 * j + 1)) = false) ∧
  flagSet s.cfg .ps (s.answerAt (2 * n + 1)) = true

/-- Fields no transaction writes: all but the bus signals, `idx`, `rxd`, `g.mode`, the chip ledger and what a bracket
takes and leaves (R110, R113, R116, R130). -/
def sameElsewhere (s t : State) : Prop :=
  t.cmd = s.cmd ∧ t.seq = s.seq ∧ t.svSync = s.svSync ∧ t.svPlen = s.svPlen ∧ t.syncLen = s.syncLen ∧
  t.syncTol = s.syncTol ∧ t.syncVal = s.syncVal ∧ t.rxPlen = s.rxPlen ∧ t.cap = s.cap ∧ t.txLen = s.txLen ∧
  t.suppress = s.suppress ∧ t.resReceived = s.resReceived ∧ t.resLen = s.resLen ∧ t.gConfigured = s.gConfigured ∧
  t.buffer = s.buffer ∧ t.bufEpoch = s.bufEpoch ∧ t.opEpoch = s.opEpoch ∧ t.arbiterEnd = s.arbiterEnd ∧ t.cfg = s.cfg ∧
  t.host = s.host

/-- Is the host's next move a reset (R230, R232)? -/
def State.resetNext (s : State) : Bool :=
  match s.host with
  | .reset :: _ => true
  | .resetIn _ :: _ => true
  | _ => false

/-- Every field of the master and both ghosts at the values of R45 (R230); the operand latches, to which R45 gives no
value (log 10), apart. -/
def State.masterReset (t : State) : Prop :=
  t.csN = 1 ∧ t.ownsBus = false ∧ t.cmd = .none ∧ t.seq = .idle ∧ t.idx = 0 ∧ t.rxd = none ∧ t.svSync = none ∧
  t.svPlen = none ∧ t.resReceived = false ∧ t.resLen = 0 ∧ t.gMode = .unknown ∧ t.gConfigured = false

/-- Everything outside the master is as it was, the host's queue apart (R231). -/
def sameOutside (s t : State) : Prop :=
  t.regs = s.regs ∧ t.fifoIn = s.fifoIn ∧ t.fifoOut = s.fifoOut ∧ t.buffer = s.buffer ∧ t.bufEpoch = s.bufEpoch ∧
  t.cfg = s.cfg ∧ t.rx = s.rx ∧ t.drawn = s.drawn ∧ t.opEpoch = s.opEpoch ∧ t.arbiter = s.arbiter ∧
  t.arbiterEnd = s.arbiterEnd ∧ t.trace = s.trace

/-- After a bracket of `n` exchanges cut short (R232): one grant and `n` answers used, nothing known of the chip, the
caller's buffer and the parameters as they were. -/
def cutOutside (n : Nat) (s t : State) : Prop :=
  t.regs = [] ∧ t.fifoIn = [] ∧ t.fifoOut = [] ∧ t.buffer = s.buffer ∧ t.bufEpoch = s.bufEpoch ∧ t.cfg = s.cfg ∧
  t.rx = s.rx.drop n ∧ t.drawn = s.drawn + (n - s.rx.length) ∧ t.opEpoch = s.opEpoch ∧
  t.arbiter = s.arbiter.tail ∧ t.arbiterEnd = s.arbiterEnd

/-- The events of a bracket that sends these bytes and no more (R232). -/
def cutEvents (bytes : List Byte) (s : State) : List Event :=
  [.acq, .csLow] ++ bytes.mapIdx (fun j b => .x b (s.answerAt j)) ++ [.csHigh, .rel]

/-- R136's consequence as an invariant: once configured, a master that is Idle or polling has Receive as the mode last
written. -/
def State.resting (s : State) : Bool := !s.gConfigured || s.cmd == .init || s.cmd == .tx || s.inMode .receive

/-- The events a step appends to the trace. -/
def newEvents (s t : State) : List Event := t.trace.drop s.trace.length

/-- A burst in the shorthand of R11: one of a single byte reads as a W frame (R84). -/
def burstTxn (a : Addr) : List Byte → Txn
  | [b] => .w a b
  | data => .bw a data

/-- The liveness iterations of R156 on the scratch register: `n` that fail and one that does not, the reads' answers at
exchanges `k + 3`, `k + 7`, ... -/
def livenessTxns (sentinel : Byte) (k n : Nat) (s : State) : List Txn :=
  (List.range (n + 1)).flatMap fun j =>
    [.w s.cfg.addrScratch sentinel, .r s.cfg.addrScratch (s.answerAt (k + 4 * j + 3))]

/-- The scratch register fails to answer a sentinel `n` times and then answers it, from exchange `k` on (R147). -/
def livenessAnswers (sentinel : Byte) (k n : Nat) (s : State) : Prop :=
  (∀ j, j < n → s.answerAt (k + 4 * j + 3) ≠ sentinel) ∧ s.answerAt (k + 4 * n + 3) = sentinel

/-- The transactions of a complete INIT with `p + 1` and `q + 1` liveness iterations (R156). -/
def initTxns (p q : Nat) (s : State) : List Txn :=
  livenessTxns Config.sentinelA 0 p s ++ livenessTxns Config.sentinelB (4 * (p + 1)) q s
    ++ (cfgList s.cfg s.rxPlen).map (fun e => .w e.1 e.2)
    ++ [.w s.cfg.addrSyncCfg (syncConfigByte s.cfg s.syncLen.toNat s.syncTol)]
    ++ ((s.syncVal.toList.take s.syncLen.toNat).mapIdx fun i b => .w (syncValAddr s.cfg i) b)
    ++ [.w s.cfg.addrFifoThr s.cfg.valFifoThr, .w s.cfg.addrMode s.cfg.valReceive]

/-- The reads of a POLL that drains `n` bytes, up to the last of them (R171). -/
def pollTxns (n : Nat) (s : State) : List Txn :=
  .r s.cfg.flagPr.addr (s.answerAt 1) ::
    (List.range n).flatMap fun j =>
      [.r s.cfg.flagFne.addr (s.answerAt (4 * j + 3)), .r s.cfg.addrFifo (s.answerAt (4 * j + 5))]

/-- The read that finds the FIFO empty after `n` bytes (R171). -/
def pollEmptyTxn (n : Nat) (s : State) : Txn := .r s.cfg.flagFne.addr (s.answerAt (4 * n + 3))

/-- The three ways a POLL ends (R167, R168, R170): not ready at all, the FIFO found empty, the capacity reached. `tail` is
what it reads after the last byte drained. -/
def pollEnds (n : Nat) (received : Bool) (tail : List Txn) (s : State) : Prop :=
  (received = false ∧ n = 0 ∧ tail = [] ∧ flagSet s.cfg .pr (s.answerAt 1) = false) ∨
  (received = true ∧ n < s.cap.toNat ∧ tail = [pollEmptyTxn n s] ∧ flagSet s.cfg .pr (s.answerAt 1) = true ∧
    flagSet s.cfg .fne (s.answerAt (4 * n + 3)) = false) ∨
  (received = true ∧ n = s.cap.toNat ∧ tail = [] ∧ flagSet s.cfg .pr (s.answerAt 1) = true)

/-- The exchanges of TX before its payload-length save: four with no suppression, eight with it (R191). -/
def State.txOffset (s : State) : Nat := if s.suppress then 8 else 4

/-- The packet-sent reads of TX: `n` that find the flag clear and one that finds it set (R188), the first after the
exchanges of the labels before it. -/
def State.txSent (n : Nat) (s : State) : Prop :=
  (∀ j, j < n → flagSet s.cfg .ps (s.answerAt (s.txOffset + s.txLen.toNat + 7 + (2 * j + 1))) = false) ∧
  flagSet s.cfg .ps (s.answerAt (s.txOffset + s.txLen.toNat + 7 + (2 * n + 1))) = true

/-- The transactions of a complete TX with `n + 1` packet-sent reads (R191). -/
def txTxns (n : Nat) (s : State) : List Txn :=
  [.w s.cfg.addrMode s.cfg.valStandby, .w s.cfg.clrAddr s.cfg.clrVal]
    ++ (if s.suppress then [.r s.cfg.addrSyncCfg (s.answerAt 5), .w s.cfg.addrSyncCfg 0x00] else [])
    ++ [.r s.cfg.addrPlen (s.answerAt (s.txOffset + 1)), .w s.cfg.addrPlen s.txLen,
        burstTxn s.cfg.addrFifo ((List.range s.txLen.toNat).map s.bufByte),
        .w s.cfg.addrMode s.cfg.valTransmit]
    ++ (List.range (n + 1)).map
        (fun j => .r s.cfg.flagPs.addr (s.answerAt (s.txOffset + s.txLen.toNat + 7 + (2 * j + 1))))
    ++ (if s.suppress then [.w s.cfg.addrMode s.cfg.valStandby, .w s.cfg.addrSyncCfg (s.answerAt 5)] else [])
    ++ [.w s.cfg.addrPlen (s.answerAt (s.txOffset + 1)), .w s.cfg.addrMode s.cfg.valReceive]

/-- `n` steps of the machine, stopping at the first fault or refusal. -/
def run : Nat → State → Result
  | 0, s => .next s
  | n + 1, s =>
    match step s with
    | .next t => run n t
    | .fault f => .fault f
    | .refused r => .refused r

/-- A chip over time is the chip of the run from s (R61, R62): its act `r j` is the run's transaction `j`, with the byte the
run was answered, and from `r 0` on the chip sees no other transaction (R58, R73). DESIGN CHOICE (log 15): a bracket cut by a
reset (R232) is taken as the transaction its bytes read as, where the spec leaves open what the chip saw (U12); a claim that
uses this speaks only of a run with no such reset. -/
def ChipRun.chipOf (s : State) (r : Nat → Nat) (h : ChipRun) : Prop :=
  (∀ i j, i < j → r i < r j) ∧
  (∀ (n j : Nat) (t : State) (x : Txn), run n s = .next t →
    (transactions (newEvents s t))[j]? = some (some x) → h.act (r j) = .txn x) ∧
  ∀ (i : Nat) (x : Txn), r 0 ≤ i → h.act i = .txn x → ∃ j, i = r j

end Sys2Proof.Machine
end

