-- ==== Sys2Proof/Certificates/Slice0/Obligations.lean ====
section
/-! DEFINITION. The statements for the provers. Each docstring names the rules of spec/ it formalises. A statement that
speaks of the master running undisturbed takes `State.alone` as its premise: the host makes no move and no other user
contends for the bus. The bytes the chip will return are `State.answerAt`, for every script and every free value. -/

open Sys2Proof Sys2Proof.Machine

/-! ## Encodings -/

/-- Words written out from the encodings of R81 to R83, R91 and R92 decode to the instruction they stand for (the operand
bytes of a command are the model's, log 6). -/
def Obligations.WrittenOutWordsDecode : Prop :=
  decode (.bracket [0xB8, 0x02]) = .ok (.w 0x38 0x02) ∧
  decode (.bracket [0x7F, 0x00]) = .ok (.r 0x7F 0x00) ∧
  decode (.bracket [0x80]) = .ok (.bw 0x00 []) ∧
  decode (.bracket [0x80, 0xAA, 0xBB]) = .ok (.bw 0x00 [0xAA, 0xBB]) ∧
  decode (.command [0b00]) = .ok .reserved ∧
  decode (.command [0b01, 1, 0, 3, 0x2D, 0xD4]) = .ok (.init 2 0 [0x2D, 0xD4] 3) ∧
  decode (.command [0b10, 8]) = .ok (.poll 8) ∧
  decode (.command [0b11, 2, 1]) = .ok (.tx 2 true)

/-- R85: the address byte is `(w << 7) OR a`, with `w` = 1 for W and BW and 0 for R; both fields are read back from it. -/
def Obligations.AddressByteFields : Prop :=
  (∀ (w : Bool) (a : Addr),
    addrByte w a = (BitVec.setWidth 8 (BitVec.ofBool w) <<< 7) ||| BitVec.setWidth 8 a ∧
    writeMarker (addrByte w a) = w ∧ addrField (addrByte w a) = a) ∧
  ∀ (p : Params) (data ds : List Byte) (a : Addr) (v : Byte),
    ((Instr.w a v).frameBytes p data).head? = some (addrByte true a) ∧
    ((Instr.bw a ds).frameBytes p data).head? = some (addrByte true a) ∧
    ((Instr.r a v).frameBytes p data).head? = some (addrByte false a)

/-- R81 to R84, R87, R88, R91, R97: every well-formed instruction of every level, encoded and decoded again, is what it is
on the bus: frames and commands are themselves, a one-byte burst is a W frame, a micro-operation is its frame. -/
def Obligations.EncodedInstructionDecodesBack : Prop :=
  ∀ (p : Params) (data : List Byte) (i : Instr), i.wf = true → decode (encode p data i) = .ok (i.onBus p data)

/-- R97: a bracket decodes only to a well-formed frame whose bytes are exactly the bracket's. -/
def Obligations.DecodedBracketEncodesBack : Prop :=
  ∀ (p : Params) (data ts : List Byte) (i : Instr), decode (.bracket ts) = .ok i →
    i.wf = true ∧ isFrame i = true ∧ encode p data i = .bracket ts

/-- R97, with the model's choice that the port refuses by name what is no instruction (log 6, log 7), also while a command
runs (log 23). -/
def Obligations.MalformedWordsAreRefused : Prop :=
  decode (.bracket []) = .error .emptyBracket ∧
  (∀ (t : Byte) (ts : List Byte), writeMarker t = false → ts.length ≠ 1 →
    decode (.bracket (t :: ts)) = .error .readNotTwoBytes) ∧
  (∀ (c : Byte) (ops : List Byte), 4 ≤ c.toNat → decode (.command (c :: ops)) = .error .codeNotTwoBits) ∧
  (∀ (s : State) (w : PortWord) (rest : List HostMove) (e : DecodeError),
    s.host = .issue w :: rest → decode w = .error e → step s = .refused (.malformedWord e))

/-! ## The step -/

/-- R90, R91 and log 7: a word at the port that decodes to a well-formed instruction is run by the step: a command at once,
a frame where the master is Idle and the bus granted. A frame laid before an idle master waits in the queue while the bus is
another user's, one refused grant passing; laid before a busy master it is the fault CmdWhileBusy. -/
def Obligations.StepRunsTheIssuedWord : Prop :=
  ∀ (s : State) (w : PortWord) (rest : List HostMove) (i : Instr),
    s.host = .issue w :: rest → decode w = .ok i → i.wf = true →
    (isFrame i = false → step s = exec i { s with host := rest }) ∧
    (isFrame i = true → s.seq = .idle → s.busHeld = false → step s = exec i { s with host := rest }) ∧
    (isFrame i = true → s.seq = .idle → s.busHeld = true → step s = .next { s with arbiter := s.arbiter.tail }) ∧
    (isFrame i = true → s.seq ≠ .idle → step s = .fault .cmdWhileBusy)

/-- R27, R89, R118: while a command runs, one step is the micro-operation of the label and then the label's rule for what
follows. -/
def Obligations.StepRunsTheLabelsMicroOperation : Prop :=
  ∀ (s t : State) (i : Instr),
    s.host = [] → s.seq ≠ .idle → s.busHeld = false → microOp s.seq s = .ok i → exec i s = .next t →
    step s = advance s.seq t

/-- log 16, log 22: a word of the opcode table placed for fetching is what the very next step runs. -/
def Obligations.PlacedTableWordRunsNext : Prop :=
  ∀ (s : State) (nbits w : Nat) (i : Instr), decodeTableWord nbits w = some i →
    step (s.withFetchWord nbits w) = exec i { s.withFetchWord nbits w with host := s.host }

/-- R73, R210, R217, R230: a master that cannot go on waits. Idle and with no host move it does nothing; while another user
owns the bus it holds at `Acquire()`, whatever it would run, and nothing else changes (the refused grant is the schedule's,
log 3). A bus never granted again holds it there for ever; under a fair arbiter (D26, U18) the hold ends after finitely many
steps, nothing else changed. The host's own moves (log 5): `await` and `load` wait while a command runs, the master going on meanwhile, and
`pause` lets one step of the master go by; a load fills the buffer from index 0 and makes its other bytes unknown (log 12). -/
def Obligations.MasterWaits : Prop :=
  (∀ s : State, s.host = [] → s.seq = .idle → step s = .next s) ∧
  (∀ s : State, s.host = [] → s.seq ≠ .idle → s.busHeld = true →
    step s = .next { s with arbiter := s.arbiter.tail }) ∧
  (∀ (i : Instr) (s : State), i.wf = true → i.frameBytes s.cfg [] ≠ [] → s.busHeld = true →
    exec i s = .next { s with arbiter := s.arbiter.tail }) ∧
  (∀ (s : State) (n : Nat), s.host = [] → s.seq ≠ .idle → s.arbiter = [] → s.arbiterEnd = .never →
    run n s = .next s) ∧
  (∀ s : State, s.host = [] → s.seq ≠ .idle → s.fair = true →
    ∃ n : Nat, run n s = .next { s with arbiter := s.arbiter.drop n } ∧
      { s with arbiter := s.arbiter.drop n }.busHeld = false) ∧
  (∀ s : State, s.host = [] → step s = masterStep s) ∧
  (∀ (s : State) (rest : List HostMove), s.host = .await :: rest →
    (s.seq = .idle → step s = .next { s with host := rest }) ∧ (s.seq ≠ .idle → step s = masterStep s)) ∧
  (∀ (s : State) (rest : List HostMove), s.host = .pause :: rest → step s = masterStep { s with host := rest }) ∧
  (∀ (s : State) (data : List Byte) (rest : List HostMove), s.host = .load data :: rest →
    (s.seq = .idle → ∃ t : State, step s = .next t ∧
      t = { s with host := rest, buffer := t.buffer, bufEpoch := s.bufEpoch + 1 } ∧
      ∀ j : Nat, t.buffer.read? j = data[j]?) ∧
    (s.seq ≠ .idle → step s = masterStep s))

/-! ## Results of frames and micro-operations -/

/-- R110: WREG, and the W frame it is, on a granted bus. -/
def Obligations.WriteTransaction : Prop :=
  ∀ (a : Addr) (v : Byte) (s : State), s.busHeld = false →
    exec (.wreg a v) s = .next (s.wrote a v) ∧ exec (.w a v) s = .next (s.wrote a v)

/-- R113: RREG, sending DUMMY, on a granted bus; and the raw R frame, which sends its own second byte and writes `rxd` too,
as the model chooses (log 7, log 25). -/
def Obligations.ReadTransaction : Prop :=
  ∀ (a : Addr) (s : State), s.busHeld = false →
    exec (.rreg a) s = .next (s.didRead a s.cfg.dummy) ∧
    ∀ d : Byte, exec (.r a d) s = .next (s.didRead a d)

/-- R116: FIFOWR sends the first `n` bytes of the buffer in one bracket, for every `n` (R117). -/
def Obligations.FifoBurstSendsTheBuffer : Prop :=
  ∀ (n : Byte) (s : State), s.busHeld = false → exec (.fifowr n) s = .next (s.sentBuffer n.toNat)

/-- R83 and log 21: a burst frame sends its data to its one address; more than 255 bytes are no frame. -/
def Obligations.BurstFrameSendsItsData : Prop :=
  ∀ (a : Addr) (data : List Byte) (s : State),
    (data.length ≤ 255 → s.busHeld = false → exec (.bw a data) s = .next (s.sentBurst a data)) ∧
    (255 < data.length → exec (.bw a data) s = .refused .burstTooLong)

/-- R130: SETMODE is the write of `MODE_VAL[m]` to the mode register, and `g.mode <- m`. -/
def Obligations.SetmodeWritesTheModeByte : Prop :=
  ∀ (m : Mode) (s : State), s.busHeld = false →
    exec (.setmode m) s = .next { s.wrote s.cfg.addrMode (s.cfg.modeVal m) with gMode := .known m }

/-- R132: CLRFIFO is exactly one write; the ledger of the chip's FIFO (log 13) is then empty where CLR_ADDR is not the FIFO's
address, as R7 (f) requires. -/
def Obligations.ClrfifoIsOneWrite : Prop :=
  ∀ s : State, s.busHeld = false →
    exec .clrfifo s = .next (s.wrote s.cfg.clrAddr s.cfg.clrVal) ∧
    (s.cfg.fixedOk = true →
      (s.wrote s.cfg.clrAddr s.cfg.clrVal).fifoIn = [] ∧ (s.wrote s.cfg.clrAddr s.cfg.clrVal).fifoOut = [])

/-- R119: RFLAG reads the flag's register once and its Bool, a function of the next state (log 24), is the mask test of the
byte read. -/
def Obligations.RflagTestsTheMask : Prop :=
  ∀ (f : Flag) (s : State), s.busHeld = false →
    exec (.rflag f) s = .next (s.didRead (s.cfg.flag f).addr s.cfg.dummy) ∧
    ((s.didRead (s.cfg.flag f).addr s.cfg.dummy).flagResult f = true ↔
      s.answerAt 1 &&& (s.cfg.flag f).mask ≠ 0)

/-! ## Starting a command -/

/-- R24, R26, R145, R146: Start(INIT) in Idle with operands in their types latches them and goes to I1w; the sync bytes go
to the first cells, the other cells and the latches of POLL and TX hold no operand (log 10), and nothing else changes. -/
def Obligations.StartInitLatchesOperands : Prop :=
  ∀ (len : Nat) (tol : Byte) (val : List Byte) (rxLen : Byte) (s : State),
    s.seq = .idle → initOk len val = true →
    ∃ t : State,
      exec (.init len tol val rxLen) s = .next t ∧
      t = { s.dropOperands with
            cmd := .init
            seq := .i1w
            rxd := none
            syncLen := t.syncLen
            syncTol := tol
            syncVal := t.syncVal
            rxPlen := rxLen
            trace := s.trace ++ [.start (.init len tol val rxLen)] } ∧
      t.syncLen.toNat = len ∧
      ∀ j : Fin 8, t.syncVal[j] = (val[j.val]?).getD s.dropOperands.syncVal[j]

/-- R24, R26, R165, R166: Start(POLL) in Idle latches the capacity, zeroes `idx` and goes to P1; the latches of INIT and TX
hold no operand (log 10), and nothing else changes. -/
def Obligations.StartPollLatchesCapacity : Prop :=
  ∀ (cap : Byte) (s : State), s.seq = .idle →
    exec (.poll cap) s = .next
      { s.dropOperands with
        cmd := .poll, seq := .p1, rxd := none, cap := cap, idx := 0, trace := s.trace ++ [.start (.poll cap)] }

/-- R24, R25, R26, R180: Start(TX) in Idle latches its operands whatever the length, clears the saved latches and goes to
T1m; the latches of INIT and POLL hold no operand (log 10), and nothing else changes. -/
def Obligations.StartTxLatchesOperands : Prop :=
  ∀ (len : Byte) (suppress : Bool) (s : State), s.seq = .idle →
    exec (.tx len suppress) s = .next
      { s.dropOperands with
        cmd := .tx
        seq := .t1m
        rxd := none
        txLen := len
        suppress := suppress
        svSync := none
        svPlen := none
        trace := s.trace ++ [.start (.tx len suppress)] }

/-- R94: a Start while a command runs is the fault CmdWhileBusy, whichever command it carries and whatever its operands,
and so is the step that takes it from the host. That ill-formed operands change nothing in this, and that code 00 is
refused all the same, is the model's choice (log 23). -/
def Obligations.StartWhileBusyFaults : Prop :=
  ∀ s : State, s.seq ≠ .idle →
    (∀ len tol val rxLen, exec (.init len tol val rxLen) s = .fault .cmdWhileBusy) ∧
    (∀ cap, exec (.poll cap) s = .fault .cmdWhileBusy) ∧
    (∀ len suppress, exec (.tx len suppress) s = .fault .cmdWhileBusy) ∧
    (∀ bytes rest i, s.host = .issue (.command bytes) :: rest → decode (.command bytes) = .ok i → i ≠ .reserved →
      step s = .fault .cmdWhileBusy)

/-- R95: a Start carrying code 00 is refused, whatever bytes follow the code (log 6) and also while a command runs (log 23:
the model's choice); so is INIT, in Idle, with a syncLength outside 1 to 8 or a syncValue of another length. -/
def Obligations.StartsOutsideTheTypesAreRefused : Prop :=
  (∀ s : State, exec .reserved s = .refused .reservedCommand ∧
    ∀ ops rest, s.host = .issue (.command (0b00 :: ops)) :: rest → step s = .refused .reservedCommand) ∧
  (∀ (len : Nat) (tol : Byte) (val : List Byte) (rxLen : Byte) (s : State), s.seq = .idle →
    (len < 1 ∨ 8 < len ∨ val.length ≠ len) → exec (.init len tol val rxLen) s = .refused .invalidSyncLength)

/-! ## Frames: what each instruction leaves unchanged -/

/-- R110, R130, R132: the frame of the writing instructions W, WREG, CLRFIFO and SETMODE. `a` is the address the
instruction stores to. -/
def Obligations.WritesLeaveTheRest : Prop :=
  ∀ (i : Instr) (a : Addr) (s t : State),
    ((∃ v, i = .w a v) ∨ (∃ v, i = .wreg a v) ∨ (i = .clrfifo ∧ a = s.cfg.clrAddr) ∨
      (∃ m, i = .setmode m ∧ a = s.cfg.addrMode)) →
    exec i s = .next t →
    sameElsewhere s t ∧ t.idx = s.idx ∧ t.rxd = s.rxd ∧
    ((∀ m, i ≠ .setmode m) → t.gMode = s.gMode) ∧
    (∀ b : Nat, b ≠ a.toNat → t.regs.read? b = s.regs.read? b)

/-- R113, R119: the frame of the reading instructions R, RREG and RFLAG, which store nothing. -/
def Obligations.ReadsLeaveTheRest : Prop :=
  ∀ (i : Instr) (s t : State), ((∃ a d, i = .r a d) ∨ (∃ a, i = .rreg a) ∨ (∃ f, i = .rflag f)) →
    exec i s = .next t →
    sameElsewhere s t ∧ t.idx = s.idx ∧ t.gMode = s.gMode ∧ t.fifoIn = s.fifoIn ∧
    (∀ b : Nat, t.regs.read? b = s.regs.read? b)

/-- R83, R116: the frame of the bursts BW and FIFOWR. `a` is the one address they store to. -/
def Obligations.BurstsLeaveTheRest : Prop :=
  ∀ (i : Instr) (a : Addr) (s t : State),
    ((∃ data, i = .bw a data) ∨ (∃ n, i = .fifowr n ∧ a = s.cfg.addrFifo)) →
    exec i s = .next t →
    sameElsewhere s t ∧ t.rxd = s.rxd ∧ t.gMode = s.gMode ∧
    (∀ b : Nat, b ≠ a.toNat → t.regs.read? b = s.regs.read? b)

/-- R24, R26, R90: the frame of the commands' Start: no bus signal, no register of the chip, no ghost, no result latch, no
byte of the buffer and no latch of R25 or R28 that another command uses. No operand of another command survives: its
operand latches are free values (R24, log 10). -/
def Obligations.StartsLeaveTheRest : Prop :=
  ∀ (i : Instr) (s t : State),
    ((∃ len tol val rxLen, i = .init len tol val rxLen) ∨ (∃ cap, i = .poll cap) ∨ (∃ len sup, i = .tx len sup)) →
    exec i s = .next t →
    t.csN = s.csN ∧ t.ownsBus = s.ownsBus ∧ t.resReceived = s.resReceived ∧ t.resLen = s.resLen ∧
    t.gMode = s.gMode ∧ t.gConfigured = s.gConfigured ∧ t.fifoIn = s.fifoIn ∧ t.fifoOut = s.fifoOut ∧
    t.buffer = s.buffer ∧ t.bufEpoch = s.bufEpoch ∧ t.cfg = s.cfg ∧ t.rx = s.rx ∧ t.drawn = s.drawn ∧
    t.arbiter = s.arbiter ∧ t.arbiterEnd = s.arbiterEnd ∧ t.host = s.host ∧ (∀ b : Nat, t.regs.read? b = s.regs.read? b) ∧
    ((∀ len tol val rxLen, i ≠ .init len tol val rxLen) →
      t.syncLen = s.dropOperands.syncLen ∧ t.syncTol = s.dropOperands.syncTol ∧ t.syncVal = s.dropOperands.syncVal ∧
        t.rxPlen = s.dropOperands.rxPlen) ∧
    ((∀ cap, i ≠ .poll cap) → t.cap = s.dropOperands.cap ∧ t.idx = s.idx) ∧
    ((∀ len sup, i ≠ .tx len sup) →
      t.txLen = s.dropOperands.txLen ∧ t.suppress = s.dropOperands.suppress ∧ t.svSync = s.svSync ∧ t.svPlen = s.svPlen)

/-! ## INIT, label by label -/

/-- R147: each liveness iteration is one write and one read of the scratch register; a match goes on, a mismatch goes back
to the write of the same loop. -/
def Obligations.LivenessIterations : Prop :=
  ∀ s : State, s.alone = true →
    (s.seq = .i1w → step s = .next { s.wrote s.cfg.addrScratch 0xAA with seq := .i1r }) ∧
    (s.seq = .i1r → step s = .next
      { s.didRead s.cfg.addrScratch s.cfg.dummy with seq := if s.answerAt 1 = 0xAA then .i1w2 else .i1w }) ∧
    (s.seq = .i1w2 → step s = .next { s.wrote s.cfg.addrScratch 0x55 with seq := .i1r2 }) ∧
    (s.seq = .i1r2 → s.answerAt 1 ≠ 0x55 → step s = .next
      { s.didRead s.cfg.addrScratch s.cfg.dummy with seq := .i1w2 }) ∧
    (s.seq = .i1r2 → s.answerAt 1 = 0x55 → step s = .next
      { s.didRead s.cfg.addrScratch s.cfg.dummy with seq := .i2 0, idx := 0 })

/-- R146, R149, R151: label I2[k] writes entry k of CFG and goes to the next, or to I3c after the last; the last entry is
the payload length. CFG is the groups in the document's order, the clearing write seventh; for a `P` of at most 255 entries
the compare is the order of bytes (R98). `idx` after the last entry is the model's choice (log 11). -/
def Obligations.ConfigurationWrites : Prop :=
  (∀ (p : Params) (len : Byte), cfgList p len =
    p.cfgMod ++ p.cfgBitrate ++ p.cfgFdev ++ p.cfgFrf ++ p.cfgRxbw ++ p.cfgPkt ++ [(p.clrAddr, p.clrVal)] ++
      p.cfgPreamble ++ [(p.addrPlen, len)]) ∧
  ∀ (s : State) (k : Nat) (a : Addr) (v : Byte), s.alone = true → s.seq = .i2 k →
    (cfgList s.cfg s.rxPlen)[k]? = some (a, v) →
    (k + 1 < s.cfgLength → step s = .next { s.wrote a v with seq := .i2 (k + 1), idx := BitVec.ofNat 8 (k + 1) }) ∧
    (k + 1 = s.cfgLength → step s = .next { s.wrote a v with seq := .i3c } ∧ (a, v) = (s.cfg.addrPlen, s.rxPlen)) ∧
    (s.cfg.sizeOk = true →
      (k + 1 < s.cfgLength ↔ BitVec.ofNat 8 (k + 1) < (BitVec.ofNat 8 s.cfgLength : Byte)))

/-- R152: label I3c writes the sync-configuration byte, the tolerance OR-ed in without a mask. -/
def Obligations.SyncConfigurationWrite : Prop :=
  ∀ s : State, s.alone = true → s.seq = .i3c → s.initLatched = true →
    step s = .next
      { s.wrote s.cfg.addrSyncCfg
          (s.cfg.syncOn ||| (BitVec.ofNat 8 (s.syncLen.toNat - 1) <<< 3) ||| s.syncTol) with
        seq := .i3v 0
        idx := 0 }

/-- R37, R86 (a), R152: with a tolerance within its field, the byte holds sync-on, `length - 1` in bits 5 to 3 and the
tolerance in bits 2 to 0. -/
def Obligations.SyncConfigurationFields : Prop :=
  ∀ (p : Params) (len : Nat) (tol : Byte), p.syncOnOk = true → 1 ≤ len → len ≤ 8 → tol.toNat < 8 →
    (syncConfigByte p len tol).toNat / 8 % 8 = len - 1 ∧
    (syncConfigByte p len tol).toNat % 8 = tol.toNat ∧
    syncConfigByte p len tol &&& 0xC0 = p.syncOn

/-- R153: label I3v[i] writes sync byte i to `ADDR_SYNCVAL + i`, an address that does not wrap, and goes on to the next
byte or to I4; `idx` after the last byte is the model's choice (log 11). -/
def Obligations.SyncByteWrites : Prop :=
  ∀ (s : State) (i : Fin 8), s.alone = true → s.initLatched = true → s.seq = .i3v i → i.val < s.syncLen.toNat →
    (∀ j : Fin 8, j.val = i.val + 1 → j.val < s.syncLen.toNat →
      step s = .next
        { s.wrote (syncValAddr s.cfg i.val) s.syncVal[i] with seq := .i3v j, idx := BitVec.ofNat 8 j.val }) ∧
    (i.val + 1 = s.syncLen.toNat →
      step s = .next { s.wrote (syncValAddr s.cfg i.val) s.syncVal[i] with seq := .i4 }) ∧
    (s.cfg.syncValOk = true → (syncValAddr s.cfg i.val).toNat = s.cfg.addrSyncVal.toNat + i.val)

/-- R154, R155: the threshold write, then Receive, `g.configured`, and Done; `idx` stays over the threshold write, by the
model's choice, and is a free value at the end (R28, log 11), where the operands are gone (R24, log 10). -/
def Obligations.InitThresholdThenReceive : Prop :=
  ∀ s : State, s.alone = true →
    (s.seq = .i4 → step s = .next { s.wrote s.cfg.addrFifoThr s.cfg.valFifoThr with seq := .i5 }) ∧
    (s.seq = .i5 → ∃ t : State, step s = .next t ∧
      t = { (s.wrote s.cfg.addrMode s.cfg.valReceive).dropOperands with
            gMode := .known .receive
            gConfigured := true
            cmd := .none
            seq := .idle
            idx := t.idx
            drawn := t.drawn
            trace := (s.wrote s.cfg.addrMode s.cfg.valReceive).trace ++ [.done none] })

/-! ## POLL, label by label -/

/-- R167: payload ready clear: exactly one read, results (false, 0), no byte stored. At `Done` the operands are gone (R24,
log 10). -/
def Obligations.PollNotReadyEndsAtOnce : Prop :=
  ∀ s : State, s.alone = true → s.seq = .p1 → s.answerAt 1 &&& s.cfg.flagPr.mask = 0 →
    step s = .next
      { (s.didRead s.cfg.flagPr.addr s.cfg.dummy).dropOperands with
        resReceived := false
        resLen := 0
        cmd := .none
        seq := .idle
        trace := (s.didRead s.cfg.flagPr.addr s.cfg.dummy).trace ++ [.done (some (false, 0))] }

/-- R168, R170: the loop test after P1 found the flag set: the count before the FIFO flag. At `Done` the
operands are gone (R24, log 10). -/
def Obligations.PollReadyTestsTheCount : Prop :=
  ∀ s : State, s.alone = true → s.seq = .p1 → s.answerAt 1 &&& s.cfg.flagPr.mask ≠ 0 →
    (s.idx < s.cap → step s = .next { s.didRead s.cfg.flagPr.addr s.cfg.dummy with seq := .p2 }) ∧
    (s.cap ≤ s.idx → step s = .next
      { (s.didRead s.cfg.flagPr.addr s.cfg.dummy).dropOperands with
        resReceived := true
        resLen := s.idx
        cmd := .none
        seq := .idle
        trace := (s.didRead s.cfg.flagPr.addr s.cfg.dummy).trace ++ [.done (some (true, s.idx))] })

/-- R169, R170: label P2: FIFO not empty goes on to P3, else the command ends with the count drained, its
operands gone (R24, log 10). -/
def Obligations.PollFifoFlag : Prop :=
  ∀ s : State, s.alone = true → s.seq = .p2 →
    (s.answerAt 1 &&& s.cfg.flagFne.mask ≠ 0 →
      step s = .next { s.didRead s.cfg.flagFne.addr s.cfg.dummy with seq := .p3 }) ∧
    (s.answerAt 1 &&& s.cfg.flagFne.mask = 0 →
      step s = .next
        { (s.didRead s.cfg.flagFne.addr s.cfg.dummy).dropOperands with
          resReceived := true
          resLen := s.idx
          cmd := .none
          seq := .idle
          trace := (s.didRead s.cfg.flagFne.addr s.cfg.dummy).trace ++ [.done (some (true, s.idx))] })

/-- R168, R169: label P3: the byte read goes to the buffer at the count, the count goes up, and the loop test follows. -/
def Obligations.PollStoresTheByte : Prop :=
  ∀ s : State, s.alone = true → s.seq = .p3 → s.idx < s.cap →
    ∃ t : State, step s = .next t ∧
      t.buffer = s.buffer.write s.idx.toNat (s.answerAt 1) ∧
      t.idx = s.idx + 1 ∧ t.rxd = some (s.answerAt 1) ∧ t.regs = s.regs ∧ t.gMode = s.gMode ∧
      (s.idx + 1 < s.cap → t.seq = .p2 ∧ t.cmd = s.cmd ∧
        t.trace = s.trace ++ readEvents s.cfg.addrFifo s.cfg.dummy s ++ [.bufWr s.idx.toNat (s.answerAt 1)]) ∧
      (s.idx + 1 = s.cap → t.seq = .idle ∧ t.cmd = .none ∧ t.resReceived = true ∧ t.resLen = s.cap ∧
        t.trace = s.trace ++ readEvents s.cfg.addrFifo s.cfg.dummy s ++
          [.bufWr s.idx.toNat (s.answerAt 1), .done (some (true, s.cap))])

/-! ## TX, label by label -/

/-- R181, R182: Standby, then CLRFIFO, then the save that suppression needs or the payload-length save. -/
def Obligations.TxForcesStandbyAndClears : Prop :=
  ∀ s : State, s.alone = true →
    (s.seq = .t1m → step s = .next
      { s.wrote s.cfg.addrMode s.cfg.valStandby with gMode := .known .standby, seq := .t1c }) ∧
    (s.seq = .t1c → step s = .next
      { s.wrote s.cfg.clrAddr s.cfg.clrVal with seq := if s.suppress then .t2r else .t3r })

/-- R183: the sync configuration is saved as the chip returns it and then zeroed. -/
def Obligations.TxSavesAndZeroesSync : Prop :=
  ∀ s : State, s.alone = true →
    (s.seq = .t2r → step s = .next
      { s.didRead s.cfg.addrSyncCfg s.cfg.dummy with svSync := some (s.answerAt 1), seq := .t2w }) ∧
    (s.seq = .t2w → step s = .next { s.wrote s.cfg.addrSyncCfg 0x00 with seq := .t3r })

/-- R184: the payload length is saved as the chip returns it and then set to the packet's. -/
def Obligations.TxSavesAndSetsPayloadLength : Prop :=
  ∀ s : State, s.alone = true →
    (s.seq = .t3r → step s = .next
      { s.didRead s.cfg.addrPlen s.cfg.dummy with svPlen := some (s.answerAt 1), seq := .t3w }) ∧
    (s.seq = .t3w → step s = .next { s.wrote s.cfg.addrPlen s.txLen with seq := .t4 })

/-- R185, R187: the FIFO is filled in one burst and only then Transmit is selected. -/
def Obligations.TxFillsThenSelectsTransmit : Prop :=
  ∀ s : State, s.alone = true →
    (s.seq = .t4 → step s = .next { s.sentBuffer s.txLen.toNat with seq := .t5m }) ∧
    (s.seq = .t5m → step s = .next
      { s.wrote s.cfg.addrMode s.cfg.valTransmit with gMode := .known .transmit, seq := .t5p })

/-- R188: each iteration of the packet-sent spin is one read of the flag register; clear stays, set goes on. -/
def Obligations.TxSpinsOnPacketSent : Prop :=
  ∀ s : State, s.alone = true → s.seq = .t5p →
    (s.answerAt 1 &&& s.cfg.flagPs.mask = 0 → step s = .next (s.didRead s.cfg.flagPs.addr s.cfg.dummy)) ∧
    (s.answerAt 1 &&& s.cfg.flagPs.mask ≠ 0 → step s = .next
      { s.didRead s.cfg.flagPs.addr s.cfg.dummy with seq := if s.suppress then .t6m else .t7w })

/-- R189: Standby, then the byte saved by T2r is written back; a latch that holds none is the fault of R25. -/
def Obligations.TxRestoresSync : Prop :=
  ∀ s : State, s.alone = true →
    (s.seq = .t6m → step s = .next
      { s.wrote s.cfg.addrMode s.cfg.valStandby with gMode := .known .standby, seq := .t6w }) ∧
    (∀ v, s.seq = .t6w → s.svSync = some v → step s = .next { s.wrote s.cfg.addrSyncCfg v with seq := .t7w }) ∧
    (s.seq = .t6w → s.svSync = none → step s = .fault .readOfUnwrittenLatch)

/-- R190: the byte saved by T3r is written back, then Receive, then Done, the operands gone (R24, log 10). -/
def Obligations.TxRestoresLengthThenReceives : Prop :=
  ∀ s : State, s.alone = true →
    (∀ v, s.seq = .t7w → s.svPlen = some v → step s = .next { s.wrote s.cfg.addrPlen v with seq := .t7m }) ∧
    (s.seq = .t7w → s.svPlen = none → step s = .fault .readOfUnwrittenLatch) ∧
    (s.seq = .t7m → step s = .next
      { (s.wrote s.cfg.addrMode s.cfg.valReceive).dropOperands with
        gMode := .known .receive
        cmd := .none
        seq := .idle
        trace := (s.wrote s.cfg.addrMode s.cfg.valReceive).trace ++ [.done none] })

/-! ## Reset -/

/-- R45, R230: what reset leaves in the master and the ghosts (the operand latches' values are the model's, log 10, and so
not stated). -/
def Obligations.ResetValues : Prop :=
  State.reset.csN = 1 ∧ State.reset.ownsBus = false ∧ State.reset.cmd = .none ∧ State.reset.seq = .idle ∧
  State.reset.idx = 0 ∧ State.reset.rxd = none ∧ State.reset.svSync = none ∧ State.reset.svPlen = none ∧
  State.reset.resReceived = false ∧ State.reset.resLen = 0 ∧ State.reset.gMode = .unknown ∧
  State.reset.gConfigured = false

/-- R230, R231: the reset event, from any state: the master's fields and the ghosts take the values of R45, no bus event
occurs, and nothing else changes: neither the chip, nor the buffer, nor any input to come. A reset meant for the inside of a
transaction is the same where none is under way: in Idle, and while the bus is another user's (R232, log 15). -/
def Obligations.ResetEventResetsTheMasterOnly : Prop :=
  ∀ (s : State) (rest : List HostMove),
    (s.host = .reset :: rest ∨ ∃ n, s.host = .resetIn n :: rest ∧ (s.seq = .idle ∨ s.busHeld = true)) →
    ∃ t : State, step s = .next t ∧ t.masterReset ∧ sameOutside s t ∧ t.host = rest

/-- R232: a reset inside a transaction, after `n` of its exchanges: those exchanges, then `CsHigh, Rel` at once, the master
reset as R45 says, and nothing known of the chip. The first clause is the brackets of W and R frames at every label but T4,
the second T4's burst before its first byte, the third the burst after the address byte and `n` data bytes, or all of them
where it has fewer. That a cut falls between two bytes is the model's (log 15). -/
def Obligations.ResetInsideTheBurst : Prop :=
  ∀ (s : State) (n : Nat) (rest : List HostMove), s.busHeld = false →
    (∀ i : Instr, s.host = .resetIn n :: rest → microOp s.seq s = .ok i → s.seq ≠ .t4 →
      ∃ t : State, step s = .next t ∧ t.masterReset ∧ cutOutside (min n 2) s t ∧ t.host = rest ∧
        t.trace = s.trace ++ cutEvents ((i.frameBytes s.cfg []).take n) s) ∧
    (s.host = .resetIn 0 :: rest → s.seq = .t4 →
      ∃ t : State, step s = .next t ∧ t.masterReset ∧ cutOutside 0 s t ∧ t.host = rest ∧
        t.trace = s.trace ++ cutEvents [] s) ∧
    (s.host = .resetIn (n + 1) :: rest → s.seq = .t4 →
      ∃ t : State, step s = .next t ∧ t.masterReset ∧ cutOutside (min n s.txLen.toNat + 1) s t ∧ t.host = rest ∧
        t.trace = s.trace ++ fifoEvents (min n s.txLen.toNat) s)

/-! ## Invariants and whole-machine rules -/

/-- The invariant, and the constraints of R7 on the parameters the model resets to (log 1), hold at reset. -/
def Obligations.InvariantAtReset : Prop := State.reset.inv = true ∧ State.reset.cfg.wf = true

/-- R21, R22, R27, R28, R115, R134, R240: every step keeps the invariant: chip-select released and the bus free between
steps, every bracket of the trace well formed, the ghost mode and the latches as each label needs them, and the memories
canonical. -/
def Obligations.EveryStepKeepsTheInvariant : Prop :=
  ∀ s t : State, s.inv = true → step s = .next t → t.inv = true

/-- R25, R200, R210: from a state the invariant allows, the only fault is a word laid before a busy master; in particular
no latch is read before it is written. -/
def Obligations.OnlyAnOverlappingWordFaults : Prop :=
  ∀ (s : State) (f : Fault), s.inv = true → step s = .fault f →
    f = .cmdWhileBusy ∧ s.seq ≠ .idle ∧ ∃ w rest, s.host = .issue w :: rest

/-- R44: no step changes the parameters. -/
def Obligations.ParametersNeverChange : Prop :=
  ∀ s t : State, step s = .next t → t.cfg = s.cfg

/-- R134, R137: the mode last written changes only by a reset and by the transitions of the table. -/
def Obligations.ModeTransitionsAreTheTables : Prop :=
  ∀ s t : State, s.inv = true → step s = .next t → t.gMode ≠ s.gMode →
    (s.resetNext = true ∧ t.gMode = .unknown) ∨
    (s.seq = .i5 ∧ t.gMode = .known .receive) ∨
    (s.seq = .t1m ∧ t.gMode = .known .standby) ∨
    (s.seq = .t5m ∧ s.gMode = .known .standby ∧ t.gMode = .known .transmit) ∨
    (s.seq = .t6m ∧ s.suppress = true ∧ s.gMode = .known .transmit ∧ t.gMode = .known .standby) ∨
    (s.seq = .t7m ∧ s.suppress = false ∧ s.gMode = .known .transmit ∧ t.gMode = .known .receive) ∨
    (s.seq = .t7m ∧ s.suppress = true ∧ s.gMode = .known .standby ∧ t.gMode = .known .receive)

/-- R136: a command other than POLL that ends, ends in Receive, unless it was ended by a reset. Consequently, once an INIT
has reached Done the mode last written is Receive in every Idle state that a run from reset reaches, whatever `P`, the
chip's answers, the grants and the host's moves are: `State.resting` holds at reset and is kept by every step. -/
def Obligations.CommandsEndInReceive : Prop :=
  (∀ s t : State, s.inv = true → step s = .next t → s.seq ≠ .idle → t.seq = .idle → s.cmd ≠ .poll →
    s.resetNext = false → t.gMode = .known .receive) ∧
  (∀ s t : State, s.inv = true → s.resting = true → step s = .next t → t.resting = true) ∧
  (∀ s : State, s.inv = true → s.resting = true → s.seq = .idle → s.gConfigured = true → s.gMode = .known .receive) ∧
  ∀ (n : Nat) (p : Params) (answers : List Byte) (grants : List Bool) (after : GrantsEnd) (moves : List HostMove)
      (t : State),
    run n { State.reset with
        cfg := p, rx := answers, arbiter := grants, arbiterEnd := after, host := moves } = .next t →
    t.seq = .idle → t.gConfigured = true → t.gMode = .known .receive

/-- R35: `g.configured` becomes true only at the last label of INIT. -/
def Obligations.ConfiguredOnlyByInit : Prop :=
  ∀ s t : State, step s = .next t → s.gConfigured = false → t.gConfigured = true → s.seq = .i5

/-- R241: at every write of the sync-configuration register that TX issues, the mode last written is Standby. -/
def Obligations.TxWritesSyncOnlyInStandby : Prop :=
  ∀ (s t : State) (v : Byte), s.inv = true → s.cfg.fixedOk = true → s.cmd = .tx → step s = .next t →
    some (.w s.cfg.addrSyncCfg v) ∈ transactions (newEvents s t) → s.gMode = .known .standby

/-- R135, R175: POLL writes no register and selects no mode: every transaction of its steps is a read. -/
def Obligations.PollOnlyReads : Prop :=
  ∀ s t : State, s.alone = true → s.inv = true → s.cmd = .poll → step s = .next t →
    t.regs = s.regs ∧ t.fifoIn = s.fifoIn ∧ t.gMode = s.gMode ∧
    ∃ a v, transactions (newEvents s t) = [some (.r a v)]

/-! ## Whole commands -/

/-- R171, R174: a POLL that has started ends within `2 * cap + 2` transactions, whatever the chip returns: its transactions
are the reads of R171 in order and no write, it stores the bytes read at indexes 0 to `n - 1` in order, and it ends in one of
three ways, by a clear payload-ready flag, an empty FIFO or the capacity. -/
def Obligations.PollAlwaysEnds : Prop :=
  ∀ s : State, s.alone = true → s.seq = .p1 → s.idx = 0 →
    ∃ (n : Nat) (tail : List Txn) (t : State) (es : List Event),
      run (1 + 2 * n + tail.length) s = .next t ∧ 1 + 2 * n + tail.length ≤ 2 * s.cap.toNat + 2 ∧
      pollEnds n t.resReceived tail s ∧
      (∀ j, j < n → flagSet s.cfg .fne (s.answerAt (4 * j + 3)) = true) ∧
      t.seq = .idle ∧ t.cmd = .none ∧ t.resLen.toNat = n ∧ t.resLen ≤ s.cap ∧
      t.trace = s.trace ++ es ++ [.done (some (t.resReceived, t.resLen))] ∧
      transactions es = (pollTxns n s ++ tail).map some ∧
      bufWrites es = (List.range n).map fun j => (j, s.answerAt (4 * j + 5))

/-- R171, R176: a POLL whose answers drain the bytes `d` returns `(true, min(q, cap))` by the reads of R171, stores the first
bytes of `d` in order from index 0, and leaves every other index of the buffer. Under E-RXFIFO (R65) the answers are so: in
Receive, under a configured length of 1 to 66 (U6), with a complete frame `d` in the FIFO that came into an empty one, payload
ready set, no other frame arriving (U13) and the flags in other registers than the FIFO's; the FIFO then holds what is left of
it. -/
def Obligations.PollDeliversTheFrame : Prop :=
  ∀ (s : State) (d : List Byte), s.alone = true → s.seq = .p1 → s.idx = 0 →
    (s.drains d s.cap.toNat → ∃ (t : State) (es : List Event),
      run (1 + 2 * min d.length s.cap.toNat + (if d.length < s.cap.toNat then 1 else 0)) s = .next t ∧
      t.seq = .idle ∧ t.cmd = .none ∧ t.resReceived = true ∧ t.resLen.toNat = min d.length s.cap.toNat ∧
      t.trace = s.trace ++ es ++ [.done (some (true, t.resLen))] ∧
      transactions es =
        (pollTxns (min d.length s.cap.toNat) s ++
          (if d.length < s.cap.toNat then [pollEmptyTxn d.length s] else [])).map some ∧
      bufWrites es = (d.take s.cap.toNat).mapIdx (fun j b => (j, b)) ∧
      (∀ j, j < min d.length s.cap.toNat → t.buffer.read? j = d[j]?) ∧
      (∀ j, min d.length s.cap.toNat ≤ j → t.buffer.read? j = s.buffer.read? j)) ∧
    ∀ (h : ChipRun) (r : Nat → Nat), h.chipOf s r → h.eRxFifo s.cfg →
      s.cfg.flagPr.addr ≠ s.cfg.addrFifo → s.cfg.flagFne.addr ≠ s.cfg.addrFifo → (h.view (r 0)).fifo = d → flagSet s.cfg .pr (s.answerAt 1) = true →
      (∀ i, r 0 ≤ i → i ≤ r (2 * s.cap.toNat + 1) → (h.view i).mode = some .receive ∧ h.oneFrame s.cfg i ∧
        ((h.act i).reads s.cfg.addrFifo = none → (h.view (i + 1)).fifo = (h.view i).fifo)) →
      s.drains d s.cap.toNat ∧
      (h.view (r (2 * min d.length s.cap.toNat + (if d.length < s.cap.toNat then 1 else 0)) + 1)).fifo =
        d.drop (min d.length s.cap.toNat)

/-- R148 (under E-PLAIN(ADDR_SCRATCH), R63): the first liveness loop ends after exactly one iteration, and so does the
second. -/
def Obligations.LivenessEndsUnderEPlain : Prop :=
  ∀ s t : State, s.alone = true → step s = .next t → t.ePlain s.cfg.addrScratch = true →
    (s.seq = .i1w → ∃ u, step t = .next u ∧ u.seq = .i1w2) ∧
    (s.seq = .i1w2 → ∃ u, step t = .next u ∧ u.seq = .i2 0)

/-- R156: a complete INIT from I1w with `p + 1` and `q + 1` liveness iterations: its transactions in order, their number,
and the state it ends in. -/
def Obligations.InitRunsItsTransactions : Prop :=
  ∀ (s : State) (p q : Nat), s.alone = true → s.seq = .i1w → s.initLatched = true →
    livenessAnswers 0xAA 0 p s → livenessAnswers 0x55 (4 * (p + 1)) q s →
    ∃ (t : State) (es : List Event),
      run (2 * (p + 1) + 2 * (q + 1) + s.cfgLength + 1 + s.syncLen.toNat + 1 + 1) s = .next t ∧
      t.trace = s.trace ++ es ++ [.done none] ∧ transactions es = (initTxns p q s).map some ∧
      t.seq = .idle ∧ t.cmd = .none ∧ t.gMode = .known .receive ∧ t.gConfigured = true

/-- R191, R193: a complete TX from T1m whose packet-sent flag is read clear `n` times and then set: its transactions in
order, their number (8 or 12 and the reads), Receive at the end, the payload length written back as it was read and, with
suppression, the sync configuration too; without suppression no sync-configuration register is touched. -/
def Obligations.TxRunsItsTransactions : Prop :=
  ∀ (s : State) (n : Nat), s.alone = true → s.seq = .t1m → s.cfg.fixedOk = true → s.txSent n →
    ∃ (t : State) (es : List Event),
      run ((if s.suppress then 12 else 8) + (n + 1)) s = .next t ∧
      t.trace = s.trace ++ es ++ [.done none] ∧ transactions es = (txTxns n s).map some ∧
      t.seq = .idle ∧ t.cmd = .none ∧ t.gMode = .known .receive ∧
      t.regs.read? s.cfg.addrPlen.toNat = some (s.answerAt (s.txOffset + 1)) ∧
      t.regs.read? s.cfg.addrSyncCfg.toNat =
        if s.suppress then some (s.answerAt 5) else s.regs.read? s.cfg.addrSyncCfg.toNat

/-- R188, R204: as long as the chip does not set packet sent, TX stays in its spin, one read a step; the first read that
finds it set ends the spin. Under E-SENT (R67) it ends: with 1 to 66 bytes in the FIFO and their number in the payload-length
register when Transmit was written, and neither the mode changed nor the chip reset in between. -/
def Obligations.TxSpinLastsUntilSent : Prop :=
  ∀ s : State, s.alone = true → s.seq = .t5p →
    (∀ n : Nat, (∀ j, j < n → flagSet s.cfg .ps (s.answerAt (2 * j + 1)) = false) →
      ∃ t : State, run n s = .next t ∧ t.seq = .t5p ∧ t.cmd = s.cmd ∧ t.regs = s.regs ∧ t.gMode = s.gMode) ∧
    (∀ n : Nat, s.sentAfter n → ∃ t : State, run (n + 1) s = .next t ∧ t.seq = if s.suppress then .t6m else .t7w) ∧
    ∀ (h : ChipRun) (r : Nat → Nat) (k : Nat) (len : Byte), h.chipOf s r → h.eSent s.cfg →
      h.act k = .txn (.w s.cfg.addrMode s.cfg.valTransmit) → (h.view k).fifo.length = len.toNat →
      1 ≤ len.toNat → len.toNat ≤ Config.fifoCap → h.lastGiven s.cfg.addrPlen k = some len → k < r 0 →
      (∀ i, k < i → i < r 0 → (h.act i).endsSent s.cfg = false) → (∀ i, k < i → h.act i ≠ .reset) →
      ∃ n, s.sentAfter n
end

