-- ==== Sys2Proof/Laws/State.lean ====
section
/-! SUPPORT. One lemma per field per update of the state, each true by rfl, so that no proof unfolds a record update. -/

namespace Sys2Proof.Machine

-- dropOperands
@[simp] theorem State.dropOperands_csN (s : State) : (s.dropOperands).csN = s.csN := rfl
@[simp] theorem State.dropOperands_ownsBus (s : State) : (s.dropOperands).ownsBus = s.ownsBus := rfl
@[simp] theorem State.dropOperands_cmd (s : State) : (s.dropOperands).cmd = s.cmd := rfl
@[simp] theorem State.dropOperands_seq (s : State) : (s.dropOperands).seq = s.seq := rfl
@[simp] theorem State.dropOperands_idx (s : State) : (s.dropOperands).idx = s.idx := rfl
@[simp] theorem State.dropOperands_rxd (s : State) : (s.dropOperands).rxd = s.rxd := rfl
@[simp] theorem State.dropOperands_svSync (s : State) : (s.dropOperands).svSync = s.svSync := rfl
@[simp] theorem State.dropOperands_svPlen (s : State) : (s.dropOperands).svPlen = s.svPlen := rfl
@[simp] theorem State.dropOperands_syncLen (s : State) : (s.dropOperands).syncLen = Config.staleSyncLen s.opEpoch := rfl
@[simp] theorem State.dropOperands_syncTol (s : State) : (s.dropOperands).syncTol = Config.staleSyncTol s.opEpoch := rfl
@[simp] theorem State.dropOperands_syncVal (s : State) : (s.dropOperands).syncVal = staleCells s.opEpoch := rfl
@[simp] theorem State.dropOperands_rxPlen (s : State) : (s.dropOperands).rxPlen = Config.staleRxPlen s.opEpoch := rfl
@[simp] theorem State.dropOperands_cap (s : State) : (s.dropOperands).cap = Config.staleCap s.opEpoch := rfl
@[simp] theorem State.dropOperands_txLen (s : State) : (s.dropOperands).txLen = Config.staleTxLen s.opEpoch := rfl
@[simp] theorem State.dropOperands_suppress (s : State) : (s.dropOperands).suppress = Config.staleSuppress s.opEpoch := rfl
@[simp] theorem State.dropOperands_resReceived (s : State) : (s.dropOperands).resReceived = s.resReceived := rfl
@[simp] theorem State.dropOperands_resLen (s : State) : (s.dropOperands).resLen = s.resLen := rfl
@[simp] theorem State.dropOperands_gMode (s : State) : (s.dropOperands).gMode = s.gMode := rfl
@[simp] theorem State.dropOperands_gConfigured (s : State) : (s.dropOperands).gConfigured = s.gConfigured := rfl
@[simp] theorem State.dropOperands_regs (s : State) : (s.dropOperands).regs = s.regs := rfl
@[simp] theorem State.dropOperands_fifoIn (s : State) : (s.dropOperands).fifoIn = s.fifoIn := rfl
@[simp] theorem State.dropOperands_fifoOut (s : State) : (s.dropOperands).fifoOut = s.fifoOut := rfl
@[simp] theorem State.dropOperands_buffer (s : State) : (s.dropOperands).buffer = s.buffer := rfl
@[simp] theorem State.dropOperands_bufEpoch (s : State) : (s.dropOperands).bufEpoch = s.bufEpoch := rfl
@[simp] theorem State.dropOperands_cfg (s : State) : (s.dropOperands).cfg = s.cfg := rfl
@[simp] theorem State.dropOperands_rx (s : State) : (s.dropOperands).rx = s.rx := rfl
@[simp] theorem State.dropOperands_drawn (s : State) : (s.dropOperands).drawn = s.drawn := rfl
@[simp] theorem State.dropOperands_opEpoch (s : State) : (s.dropOperands).opEpoch = s.opEpoch + 1 := rfl
@[simp] theorem State.dropOperands_arbiter (s : State) : (s.dropOperands).arbiter = s.arbiter := rfl
@[simp] theorem State.dropOperands_arbiterEnd (s : State) : (s.dropOperands).arbiterEnd = s.arbiterEnd := rfl
@[simp] theorem State.dropOperands_host (s : State) : (s.dropOperands).host = s.host := rfl
@[simp] theorem State.dropOperands_trace (s : State) : (s.dropOperands).trace = s.trace := rfl

-- emit
@[simp] theorem State.emit_csN (es : List Event) (s : State) : (s.emit es).csN = s.csN := rfl
@[simp] theorem State.emit_ownsBus (es : List Event) (s : State) : (s.emit es).ownsBus = s.ownsBus := rfl
@[simp] theorem State.emit_cmd (es : List Event) (s : State) : (s.emit es).cmd = s.cmd := rfl
@[simp] theorem State.emit_seq (es : List Event) (s : State) : (s.emit es).seq = s.seq := rfl
@[simp] theorem State.emit_idx (es : List Event) (s : State) : (s.emit es).idx = s.idx := rfl
@[simp] theorem State.emit_rxd (es : List Event) (s : State) : (s.emit es).rxd = s.rxd := rfl
@[simp] theorem State.emit_svSync (es : List Event) (s : State) : (s.emit es).svSync = s.svSync := rfl
@[simp] theorem State.emit_svPlen (es : List Event) (s : State) : (s.emit es).svPlen = s.svPlen := rfl
@[simp] theorem State.emit_syncLen (es : List Event) (s : State) : (s.emit es).syncLen = s.syncLen := rfl
@[simp] theorem State.emit_syncTol (es : List Event) (s : State) : (s.emit es).syncTol = s.syncTol := rfl
@[simp] theorem State.emit_syncVal (es : List Event) (s : State) : (s.emit es).syncVal = s.syncVal := rfl
@[simp] theorem State.emit_rxPlen (es : List Event) (s : State) : (s.emit es).rxPlen = s.rxPlen := rfl
@[simp] theorem State.emit_cap (es : List Event) (s : State) : (s.emit es).cap = s.cap := rfl
@[simp] theorem State.emit_txLen (es : List Event) (s : State) : (s.emit es).txLen = s.txLen := rfl
@[simp] theorem State.emit_suppress (es : List Event) (s : State) : (s.emit es).suppress = s.suppress := rfl
@[simp] theorem State.emit_resReceived (es : List Event) (s : State) : (s.emit es).resReceived = s.resReceived := rfl
@[simp] theorem State.emit_resLen (es : List Event) (s : State) : (s.emit es).resLen = s.resLen := rfl
@[simp] theorem State.emit_gMode (es : List Event) (s : State) : (s.emit es).gMode = s.gMode := rfl
@[simp] theorem State.emit_gConfigured (es : List Event) (s : State) : (s.emit es).gConfigured = s.gConfigured := rfl
@[simp] theorem State.emit_regs (es : List Event) (s : State) : (s.emit es).regs = s.regs := rfl
@[simp] theorem State.emit_fifoIn (es : List Event) (s : State) : (s.emit es).fifoIn = s.fifoIn := rfl
@[simp] theorem State.emit_fifoOut (es : List Event) (s : State) : (s.emit es).fifoOut = s.fifoOut := rfl
@[simp] theorem State.emit_buffer (es : List Event) (s : State) : (s.emit es).buffer = s.buffer := rfl
@[simp] theorem State.emit_bufEpoch (es : List Event) (s : State) : (s.emit es).bufEpoch = s.bufEpoch := rfl
@[simp] theorem State.emit_cfg (es : List Event) (s : State) : (s.emit es).cfg = s.cfg := rfl
@[simp] theorem State.emit_rx (es : List Event) (s : State) : (s.emit es).rx = s.rx := rfl
@[simp] theorem State.emit_drawn (es : List Event) (s : State) : (s.emit es).drawn = s.drawn := rfl
@[simp] theorem State.emit_opEpoch (es : List Event) (s : State) : (s.emit es).opEpoch = s.opEpoch := rfl
@[simp] theorem State.emit_arbiter (es : List Event) (s : State) : (s.emit es).arbiter = s.arbiter := rfl
@[simp] theorem State.emit_arbiterEnd (es : List Event) (s : State) : (s.emit es).arbiterEnd = s.arbiterEnd := rfl
@[simp] theorem State.emit_host (es : List Event) (s : State) : (s.emit es).host = s.host := rfl
@[simp] theorem State.emit_trace (es : List Event) (s : State) : (s.emit es).trace = s.trace ++ es := rfl

-- xfer
@[simp] theorem State.xfer_csN (t : Byte) (s : State) : (s.xfer t).csN = s.csN := rfl
@[simp] theorem State.xfer_ownsBus (t : Byte) (s : State) : (s.xfer t).ownsBus = s.ownsBus := rfl
@[simp] theorem State.xfer_cmd (t : Byte) (s : State) : (s.xfer t).cmd = s.cmd := rfl
@[simp] theorem State.xfer_seq (t : Byte) (s : State) : (s.xfer t).seq = s.seq := rfl
@[simp] theorem State.xfer_idx (t : Byte) (s : State) : (s.xfer t).idx = s.idx := rfl
@[simp] theorem State.xfer_rxd (t : Byte) (s : State) : (s.xfer t).rxd = s.rxd := rfl
@[simp] theorem State.xfer_svSync (t : Byte) (s : State) : (s.xfer t).svSync = s.svSync := rfl
@[simp] theorem State.xfer_svPlen (t : Byte) (s : State) : (s.xfer t).svPlen = s.svPlen := rfl
@[simp] theorem State.xfer_syncLen (t : Byte) (s : State) : (s.xfer t).syncLen = s.syncLen := rfl
@[simp] theorem State.xfer_syncTol (t : Byte) (s : State) : (s.xfer t).syncTol = s.syncTol := rfl
@[simp] theorem State.xfer_syncVal (t : Byte) (s : State) : (s.xfer t).syncVal = s.syncVal := rfl
@[simp] theorem State.xfer_rxPlen (t : Byte) (s : State) : (s.xfer t).rxPlen = s.rxPlen := rfl
@[simp] theorem State.xfer_cap (t : Byte) (s : State) : (s.xfer t).cap = s.cap := rfl
@[simp] theorem State.xfer_txLen (t : Byte) (s : State) : (s.xfer t).txLen = s.txLen := rfl
@[simp] theorem State.xfer_suppress (t : Byte) (s : State) : (s.xfer t).suppress = s.suppress := rfl
@[simp] theorem State.xfer_resReceived (t : Byte) (s : State) : (s.xfer t).resReceived = s.resReceived := rfl
@[simp] theorem State.xfer_resLen (t : Byte) (s : State) : (s.xfer t).resLen = s.resLen := rfl
@[simp] theorem State.xfer_gMode (t : Byte) (s : State) : (s.xfer t).gMode = s.gMode := rfl
@[simp] theorem State.xfer_gConfigured (t : Byte) (s : State) : (s.xfer t).gConfigured = s.gConfigured := rfl
@[simp] theorem State.xfer_regs (t : Byte) (s : State) : (s.xfer t).regs = s.regs := rfl
@[simp] theorem State.xfer_fifoIn (t : Byte) (s : State) : (s.xfer t).fifoIn = s.fifoIn := rfl
@[simp] theorem State.xfer_fifoOut (t : Byte) (s : State) : (s.xfer t).fifoOut = s.fifoOut := rfl
@[simp] theorem State.xfer_buffer (t : Byte) (s : State) : (s.xfer t).buffer = s.buffer := rfl
@[simp] theorem State.xfer_bufEpoch (t : Byte) (s : State) : (s.xfer t).bufEpoch = s.bufEpoch := rfl
@[simp] theorem State.xfer_cfg (t : Byte) (s : State) : (s.xfer t).cfg = s.cfg := rfl
@[simp] theorem State.xfer_rx (t : Byte) (s : State) : (s.xfer t).rx = s.rx.tail := rfl
@[simp] theorem State.xfer_drawn (t : Byte) (s : State) : (s.xfer t).drawn = (if s.rx.isEmpty then s.drawn + 1 else s.drawn) := rfl
@[simp] theorem State.xfer_opEpoch (t : Byte) (s : State) : (s.xfer t).opEpoch = s.opEpoch := rfl
@[simp] theorem State.xfer_arbiter (t : Byte) (s : State) : (s.xfer t).arbiter = s.arbiter := rfl
@[simp] theorem State.xfer_arbiterEnd (t : Byte) (s : State) : (s.xfer t).arbiterEnd = s.arbiterEnd := rfl
@[simp] theorem State.xfer_host (t : Byte) (s : State) : (s.xfer t).host = s.host := rfl
@[simp] theorem State.xfer_trace (t : Byte) (s : State) : (s.xfer t).trace = s.trace ++ [.x t s.answer] := rfl

-- hold
@[simp] theorem State.hold_csN (s : State) : (s.hold).csN = s.csN := rfl
@[simp] theorem State.hold_ownsBus (s : State) : (s.hold).ownsBus = s.ownsBus := rfl
@[simp] theorem State.hold_cmd (s : State) : (s.hold).cmd = s.cmd := rfl
@[simp] theorem State.hold_seq (s : State) : (s.hold).seq = s.seq := rfl
@[simp] theorem State.hold_idx (s : State) : (s.hold).idx = s.idx := rfl
@[simp] theorem State.hold_rxd (s : State) : (s.hold).rxd = s.rxd := rfl
@[simp] theorem State.hold_svSync (s : State) : (s.hold).svSync = s.svSync := rfl
@[simp] theorem State.hold_svPlen (s : State) : (s.hold).svPlen = s.svPlen := rfl
@[simp] theorem State.hold_syncLen (s : State) : (s.hold).syncLen = s.syncLen := rfl
@[simp] theorem State.hold_syncTol (s : State) : (s.hold).syncTol = s.syncTol := rfl
@[simp] theorem State.hold_syncVal (s : State) : (s.hold).syncVal = s.syncVal := rfl
@[simp] theorem State.hold_rxPlen (s : State) : (s.hold).rxPlen = s.rxPlen := rfl
@[simp] theorem State.hold_cap (s : State) : (s.hold).cap = s.cap := rfl
@[simp] theorem State.hold_txLen (s : State) : (s.hold).txLen = s.txLen := rfl
@[simp] theorem State.hold_suppress (s : State) : (s.hold).suppress = s.suppress := rfl
@[simp] theorem State.hold_resReceived (s : State) : (s.hold).resReceived = s.resReceived := rfl
@[simp] theorem State.hold_resLen (s : State) : (s.hold).resLen = s.resLen := rfl
@[simp] theorem State.hold_gMode (s : State) : (s.hold).gMode = s.gMode := rfl
@[simp] theorem State.hold_gConfigured (s : State) : (s.hold).gConfigured = s.gConfigured := rfl
@[simp] theorem State.hold_regs (s : State) : (s.hold).regs = s.regs := rfl
@[simp] theorem State.hold_fifoIn (s : State) : (s.hold).fifoIn = s.fifoIn := rfl
@[simp] theorem State.hold_fifoOut (s : State) : (s.hold).fifoOut = s.fifoOut := rfl
@[simp] theorem State.hold_buffer (s : State) : (s.hold).buffer = s.buffer := rfl
@[simp] theorem State.hold_bufEpoch (s : State) : (s.hold).bufEpoch = s.bufEpoch := rfl
@[simp] theorem State.hold_cfg (s : State) : (s.hold).cfg = s.cfg := rfl
@[simp] theorem State.hold_rx (s : State) : (s.hold).rx = s.rx := rfl
@[simp] theorem State.hold_drawn (s : State) : (s.hold).drawn = s.drawn := rfl
@[simp] theorem State.hold_opEpoch (s : State) : (s.hold).opEpoch = s.opEpoch := rfl
@[simp] theorem State.hold_arbiter (s : State) : (s.hold).arbiter = s.arbiter.tail := rfl
@[simp] theorem State.hold_arbiterEnd (s : State) : (s.hold).arbiterEnd = s.arbiterEnd := rfl
@[simp] theorem State.hold_host (s : State) : (s.hold).host = s.host := rfl
@[simp] theorem State.hold_trace (s : State) : (s.hold).trace = s.trace := rfl

-- openBracket
@[simp] theorem State.openBracket_csN (s : State) : (s.openBracket).csN = 0 := rfl
@[simp] theorem State.openBracket_ownsBus (s : State) : (s.openBracket).ownsBus = true := rfl
@[simp] theorem State.openBracket_cmd (s : State) : (s.openBracket).cmd = s.cmd := rfl
@[simp] theorem State.openBracket_seq (s : State) : (s.openBracket).seq = s.seq := rfl
@[simp] theorem State.openBracket_idx (s : State) : (s.openBracket).idx = s.idx := rfl
@[simp] theorem State.openBracket_rxd (s : State) : (s.openBracket).rxd = s.rxd := rfl
@[simp] theorem State.openBracket_svSync (s : State) : (s.openBracket).svSync = s.svSync := rfl
@[simp] theorem State.openBracket_svPlen (s : State) : (s.openBracket).svPlen = s.svPlen := rfl
@[simp] theorem State.openBracket_syncLen (s : State) : (s.openBracket).syncLen = s.syncLen := rfl
@[simp] theorem State.openBracket_syncTol (s : State) : (s.openBracket).syncTol = s.syncTol := rfl
@[simp] theorem State.openBracket_syncVal (s : State) : (s.openBracket).syncVal = s.syncVal := rfl
@[simp] theorem State.openBracket_rxPlen (s : State) : (s.openBracket).rxPlen = s.rxPlen := rfl
@[simp] theorem State.openBracket_cap (s : State) : (s.openBracket).cap = s.cap := rfl
@[simp] theorem State.openBracket_txLen (s : State) : (s.openBracket).txLen = s.txLen := rfl
@[simp] theorem State.openBracket_suppress (s : State) : (s.openBracket).suppress = s.suppress := rfl
@[simp] theorem State.openBracket_resReceived (s : State) : (s.openBracket).resReceived = s.resReceived := rfl
@[simp] theorem State.openBracket_resLen (s : State) : (s.openBracket).resLen = s.resLen := rfl
@[simp] theorem State.openBracket_gMode (s : State) : (s.openBracket).gMode = s.gMode := rfl
@[simp] theorem State.openBracket_gConfigured (s : State) : (s.openBracket).gConfigured = s.gConfigured := rfl
@[simp] theorem State.openBracket_regs (s : State) : (s.openBracket).regs = s.regs := rfl
@[simp] theorem State.openBracket_fifoIn (s : State) : (s.openBracket).fifoIn = s.fifoIn := rfl
@[simp] theorem State.openBracket_fifoOut (s : State) : (s.openBracket).fifoOut = s.fifoOut := rfl
@[simp] theorem State.openBracket_buffer (s : State) : (s.openBracket).buffer = s.buffer := rfl
@[simp] theorem State.openBracket_bufEpoch (s : State) : (s.openBracket).bufEpoch = s.bufEpoch := rfl
@[simp] theorem State.openBracket_cfg (s : State) : (s.openBracket).cfg = s.cfg := rfl
@[simp] theorem State.openBracket_rx (s : State) : (s.openBracket).rx = s.rx := rfl
@[simp] theorem State.openBracket_drawn (s : State) : (s.openBracket).drawn = s.drawn := rfl
@[simp] theorem State.openBracket_opEpoch (s : State) : (s.openBracket).opEpoch = s.opEpoch := rfl
@[simp] theorem State.openBracket_arbiter (s : State) : (s.openBracket).arbiter = s.arbiter.tail := rfl
@[simp] theorem State.openBracket_arbiterEnd (s : State) : (s.openBracket).arbiterEnd = s.arbiterEnd := rfl
@[simp] theorem State.openBracket_host (s : State) : (s.openBracket).host = s.host := rfl
@[simp] theorem State.openBracket_trace (s : State) : (s.openBracket).trace = s.trace ++ [.acq, .csLow] := rfl

-- closeBracket
@[simp] theorem State.closeBracket_csN (s : State) : (s.closeBracket).csN = 1 := rfl
@[simp] theorem State.closeBracket_ownsBus (s : State) : (s.closeBracket).ownsBus = false := rfl
@[simp] theorem State.closeBracket_cmd (s : State) : (s.closeBracket).cmd = s.cmd := rfl
@[simp] theorem State.closeBracket_seq (s : State) : (s.closeBracket).seq = s.seq := rfl
@[simp] theorem State.closeBracket_idx (s : State) : (s.closeBracket).idx = s.idx := rfl
@[simp] theorem State.closeBracket_rxd (s : State) : (s.closeBracket).rxd = s.rxd := rfl
@[simp] theorem State.closeBracket_svSync (s : State) : (s.closeBracket).svSync = s.svSync := rfl
@[simp] theorem State.closeBracket_svPlen (s : State) : (s.closeBracket).svPlen = s.svPlen := rfl
@[simp] theorem State.closeBracket_syncLen (s : State) : (s.closeBracket).syncLen = s.syncLen := rfl
@[simp] theorem State.closeBracket_syncTol (s : State) : (s.closeBracket).syncTol = s.syncTol := rfl
@[simp] theorem State.closeBracket_syncVal (s : State) : (s.closeBracket).syncVal = s.syncVal := rfl
@[simp] theorem State.closeBracket_rxPlen (s : State) : (s.closeBracket).rxPlen = s.rxPlen := rfl
@[simp] theorem State.closeBracket_cap (s : State) : (s.closeBracket).cap = s.cap := rfl
@[simp] theorem State.closeBracket_txLen (s : State) : (s.closeBracket).txLen = s.txLen := rfl
@[simp] theorem State.closeBracket_suppress (s : State) : (s.closeBracket).suppress = s.suppress := rfl
@[simp] theorem State.closeBracket_resReceived (s : State) : (s.closeBracket).resReceived = s.resReceived := rfl
@[simp] theorem State.closeBracket_resLen (s : State) : (s.closeBracket).resLen = s.resLen := rfl
@[simp] theorem State.closeBracket_gMode (s : State) : (s.closeBracket).gMode = s.gMode := rfl
@[simp] theorem State.closeBracket_gConfigured (s : State) : (s.closeBracket).gConfigured = s.gConfigured := rfl
@[simp] theorem State.closeBracket_regs (s : State) : (s.closeBracket).regs = s.regs := rfl
@[simp] theorem State.closeBracket_fifoIn (s : State) : (s.closeBracket).fifoIn = s.fifoIn := rfl
@[simp] theorem State.closeBracket_fifoOut (s : State) : (s.closeBracket).fifoOut = s.fifoOut := rfl
@[simp] theorem State.closeBracket_buffer (s : State) : (s.closeBracket).buffer = s.buffer := rfl
@[simp] theorem State.closeBracket_bufEpoch (s : State) : (s.closeBracket).bufEpoch = s.bufEpoch := rfl
@[simp] theorem State.closeBracket_cfg (s : State) : (s.closeBracket).cfg = s.cfg := rfl
@[simp] theorem State.closeBracket_rx (s : State) : (s.closeBracket).rx = s.rx := rfl
@[simp] theorem State.closeBracket_drawn (s : State) : (s.closeBracket).drawn = s.drawn := rfl
@[simp] theorem State.closeBracket_opEpoch (s : State) : (s.closeBracket).opEpoch = s.opEpoch := rfl
@[simp] theorem State.closeBracket_arbiter (s : State) : (s.closeBracket).arbiter = s.arbiter := rfl
@[simp] theorem State.closeBracket_arbiterEnd (s : State) : (s.closeBracket).arbiterEnd = s.arbiterEnd := rfl
@[simp] theorem State.closeBracket_host (s : State) : (s.closeBracket).host = s.host := rfl
@[simp] theorem State.closeBracket_trace (s : State) : (s.closeBracket).trace = s.trace ++ [.csHigh, .rel] := rfl

-- startBurst
@[simp] theorem State.startBurst_csN (a : Addr) (s : State) : (s.startBurst a).csN = 0 := rfl
@[simp] theorem State.startBurst_ownsBus (a : Addr) (s : State) : (s.startBurst a).ownsBus = true := rfl
@[simp] theorem State.startBurst_cmd (a : Addr) (s : State) : (s.startBurst a).cmd = s.cmd := rfl
@[simp] theorem State.startBurst_seq (a : Addr) (s : State) : (s.startBurst a).seq = s.seq := rfl
@[simp] theorem State.startBurst_idx (a : Addr) (s : State) : (s.startBurst a).idx = 0 := rfl
@[simp] theorem State.startBurst_rxd (a : Addr) (s : State) : (s.startBurst a).rxd = s.rxd := rfl
@[simp] theorem State.startBurst_svSync (a : Addr) (s : State) : (s.startBurst a).svSync = s.svSync := rfl
@[simp] theorem State.startBurst_svPlen (a : Addr) (s : State) : (s.startBurst a).svPlen = s.svPlen := rfl
@[simp] theorem State.startBurst_syncLen (a : Addr) (s : State) : (s.startBurst a).syncLen = s.syncLen := rfl
@[simp] theorem State.startBurst_syncTol (a : Addr) (s : State) : (s.startBurst a).syncTol = s.syncTol := rfl
@[simp] theorem State.startBurst_syncVal (a : Addr) (s : State) : (s.startBurst a).syncVal = s.syncVal := rfl
@[simp] theorem State.startBurst_rxPlen (a : Addr) (s : State) : (s.startBurst a).rxPlen = s.rxPlen := rfl
@[simp] theorem State.startBurst_cap (a : Addr) (s : State) : (s.startBurst a).cap = s.cap := rfl
@[simp] theorem State.startBurst_txLen (a : Addr) (s : State) : (s.startBurst a).txLen = s.txLen := rfl
@[simp] theorem State.startBurst_suppress (a : Addr) (s : State) : (s.startBurst a).suppress = s.suppress := rfl
@[simp] theorem State.startBurst_resReceived (a : Addr) (s : State) : (s.startBurst a).resReceived = s.resReceived := rfl
@[simp] theorem State.startBurst_resLen (a : Addr) (s : State) : (s.startBurst a).resLen = s.resLen := rfl
@[simp] theorem State.startBurst_gMode (a : Addr) (s : State) : (s.startBurst a).gMode = s.gMode := rfl
@[simp] theorem State.startBurst_gConfigured (a : Addr) (s : State) : (s.startBurst a).gConfigured = s.gConfigured := rfl
@[simp] theorem State.startBurst_regs (a : Addr) (s : State) : (s.startBurst a).regs = s.regs := rfl
@[simp] theorem State.startBurst_fifoIn (a : Addr) (s : State) : (s.startBurst a).fifoIn = s.fifoIn := rfl
@[simp] theorem State.startBurst_fifoOut (a : Addr) (s : State) : (s.startBurst a).fifoOut = s.fifoOut := rfl
@[simp] theorem State.startBurst_buffer (a : Addr) (s : State) : (s.startBurst a).buffer = s.buffer := rfl
@[simp] theorem State.startBurst_bufEpoch (a : Addr) (s : State) : (s.startBurst a).bufEpoch = s.bufEpoch := rfl
@[simp] theorem State.startBurst_cfg (a : Addr) (s : State) : (s.startBurst a).cfg = s.cfg := rfl
@[simp] theorem State.startBurst_rx (a : Addr) (s : State) : (s.startBurst a).rx = s.rx.tail := rfl
@[simp] theorem State.startBurst_drawn (a : Addr) (s : State) : (s.startBurst a).drawn = (if s.rx.isEmpty then s.drawn + 1 else s.drawn) := rfl
@[simp] theorem State.startBurst_opEpoch (a : Addr) (s : State) : (s.startBurst a).opEpoch = s.opEpoch := rfl
@[simp] theorem State.startBurst_arbiter (a : Addr) (s : State) : (s.startBurst a).arbiter = s.arbiter.tail := rfl
@[simp] theorem State.startBurst_arbiterEnd (a : Addr) (s : State) : (s.startBurst a).arbiterEnd = s.arbiterEnd := rfl
@[simp] theorem State.startBurst_host (a : Addr) (s : State) : (s.startBurst a).host = s.host := rfl
@[simp] theorem State.startBurst_trace (a : Addr) (s : State) : (s.startBurst a).trace = s.trace ++ [.acq, .csLow] ++ [.x (addrByte true a) s.openBracket.answer] := rfl

-- chipWrite
@[simp] theorem State.chipWrite_csN (a : Addr) (v : Byte) (s : State) : (s.chipWrite a v).csN = s.csN := rfl
@[simp] theorem State.chipWrite_ownsBus (a : Addr) (v : Byte) (s : State) : (s.chipWrite a v).ownsBus = s.ownsBus := rfl
@[simp] theorem State.chipWrite_cmd (a : Addr) (v : Byte) (s : State) : (s.chipWrite a v).cmd = s.cmd := rfl
@[simp] theorem State.chipWrite_seq (a : Addr) (v : Byte) (s : State) : (s.chipWrite a v).seq = s.seq := rfl
@[simp] theorem State.chipWrite_idx (a : Addr) (v : Byte) (s : State) : (s.chipWrite a v).idx = s.idx := rfl
@[simp] theorem State.chipWrite_rxd (a : Addr) (v : Byte) (s : State) : (s.chipWrite a v).rxd = s.rxd := rfl
@[simp] theorem State.chipWrite_svSync (a : Addr) (v : Byte) (s : State) : (s.chipWrite a v).svSync = s.svSync := rfl
@[simp] theorem State.chipWrite_svPlen (a : Addr) (v : Byte) (s : State) : (s.chipWrite a v).svPlen = s.svPlen := rfl
@[simp] theorem State.chipWrite_syncLen (a : Addr) (v : Byte) (s : State) : (s.chipWrite a v).syncLen = s.syncLen := rfl
@[simp] theorem State.chipWrite_syncTol (a : Addr) (v : Byte) (s : State) : (s.chipWrite a v).syncTol = s.syncTol := rfl
@[simp] theorem State.chipWrite_syncVal (a : Addr) (v : Byte) (s : State) : (s.chipWrite a v).syncVal = s.syncVal := rfl
@[simp] theorem State.chipWrite_rxPlen (a : Addr) (v : Byte) (s : State) : (s.chipWrite a v).rxPlen = s.rxPlen := rfl
@[simp] theorem State.chipWrite_cap (a : Addr) (v : Byte) (s : State) : (s.chipWrite a v).cap = s.cap := rfl
@[simp] theorem State.chipWrite_txLen (a : Addr) (v : Byte) (s : State) : (s.chipWrite a v).txLen = s.txLen := rfl
@[simp] theorem State.chipWrite_suppress (a : Addr) (v : Byte) (s : State) : (s.chipWrite a v).suppress = s.suppress := rfl
@[simp] theorem State.chipWrite_resReceived (a : Addr) (v : Byte) (s : State) : (s.chipWrite a v).resReceived = s.resReceived := rfl
@[simp] theorem State.chipWrite_resLen (a : Addr) (v : Byte) (s : State) : (s.chipWrite a v).resLen = s.resLen := rfl
@[simp] theorem State.chipWrite_gMode (a : Addr) (v : Byte) (s : State) : (s.chipWrite a v).gMode = s.gMode := rfl
@[simp] theorem State.chipWrite_gConfigured (a : Addr) (v : Byte) (s : State) : (s.chipWrite a v).gConfigured = s.gConfigured := rfl
@[simp] theorem State.chipWrite_regs (a : Addr) (v : Byte) (s : State) : (s.chipWrite a v).regs = s.regs.write a.toNat v := rfl
@[simp] theorem State.chipWrite_fifoIn (a : Addr) (v : Byte) (s : State) : (s.chipWrite a v).fifoIn = (if isClear s.cfg a v then [] else if a = s.cfg.addrFifo then s.fifoIn ++ [v] else s.fifoIn) := rfl
@[simp] theorem State.chipWrite_fifoOut (a : Addr) (v : Byte) (s : State) : (s.chipWrite a v).fifoOut = (if isClear s.cfg a v then [] else s.fifoOut) := rfl
@[simp] theorem State.chipWrite_buffer (a : Addr) (v : Byte) (s : State) : (s.chipWrite a v).buffer = s.buffer := rfl
@[simp] theorem State.chipWrite_bufEpoch (a : Addr) (v : Byte) (s : State) : (s.chipWrite a v).bufEpoch = s.bufEpoch := rfl
@[simp] theorem State.chipWrite_cfg (a : Addr) (v : Byte) (s : State) : (s.chipWrite a v).cfg = s.cfg := rfl
@[simp] theorem State.chipWrite_rx (a : Addr) (v : Byte) (s : State) : (s.chipWrite a v).rx = s.rx := rfl
@[simp] theorem State.chipWrite_drawn (a : Addr) (v : Byte) (s : State) : (s.chipWrite a v).drawn = s.drawn := rfl
@[simp] theorem State.chipWrite_opEpoch (a : Addr) (v : Byte) (s : State) : (s.chipWrite a v).opEpoch = s.opEpoch := rfl
@[simp] theorem State.chipWrite_arbiter (a : Addr) (v : Byte) (s : State) : (s.chipWrite a v).arbiter = s.arbiter := rfl
@[simp] theorem State.chipWrite_arbiterEnd (a : Addr) (v : Byte) (s : State) : (s.chipWrite a v).arbiterEnd = s.arbiterEnd := rfl
@[simp] theorem State.chipWrite_host (a : Addr) (v : Byte) (s : State) : (s.chipWrite a v).host = s.host := rfl
@[simp] theorem State.chipWrite_trace (a : Addr) (v : Byte) (s : State) : (s.chipWrite a v).trace = s.trace := rfl

-- chipRead
@[simp] theorem State.chipRead_csN (a : Addr) (v : Byte) (s : State) : (s.chipRead a v).csN = s.csN := rfl
@[simp] theorem State.chipRead_ownsBus (a : Addr) (v : Byte) (s : State) : (s.chipRead a v).ownsBus = s.ownsBus := rfl
@[simp] theorem State.chipRead_cmd (a : Addr) (v : Byte) (s : State) : (s.chipRead a v).cmd = s.cmd := rfl
@[simp] theorem State.chipRead_seq (a : Addr) (v : Byte) (s : State) : (s.chipRead a v).seq = s.seq := rfl
@[simp] theorem State.chipRead_idx (a : Addr) (v : Byte) (s : State) : (s.chipRead a v).idx = s.idx := rfl
@[simp] theorem State.chipRead_rxd (a : Addr) (v : Byte) (s : State) : (s.chipRead a v).rxd = s.rxd := rfl
@[simp] theorem State.chipRead_svSync (a : Addr) (v : Byte) (s : State) : (s.chipRead a v).svSync = s.svSync := rfl
@[simp] theorem State.chipRead_svPlen (a : Addr) (v : Byte) (s : State) : (s.chipRead a v).svPlen = s.svPlen := rfl
@[simp] theorem State.chipRead_syncLen (a : Addr) (v : Byte) (s : State) : (s.chipRead a v).syncLen = s.syncLen := rfl
@[simp] theorem State.chipRead_syncTol (a : Addr) (v : Byte) (s : State) : (s.chipRead a v).syncTol = s.syncTol := rfl
@[simp] theorem State.chipRead_syncVal (a : Addr) (v : Byte) (s : State) : (s.chipRead a v).syncVal = s.syncVal := rfl
@[simp] theorem State.chipRead_rxPlen (a : Addr) (v : Byte) (s : State) : (s.chipRead a v).rxPlen = s.rxPlen := rfl
@[simp] theorem State.chipRead_cap (a : Addr) (v : Byte) (s : State) : (s.chipRead a v).cap = s.cap := rfl
@[simp] theorem State.chipRead_txLen (a : Addr) (v : Byte) (s : State) : (s.chipRead a v).txLen = s.txLen := rfl
@[simp] theorem State.chipRead_suppress (a : Addr) (v : Byte) (s : State) : (s.chipRead a v).suppress = s.suppress := rfl
@[simp] theorem State.chipRead_resReceived (a : Addr) (v : Byte) (s : State) : (s.chipRead a v).resReceived = s.resReceived := rfl
@[simp] theorem State.chipRead_resLen (a : Addr) (v : Byte) (s : State) : (s.chipRead a v).resLen = s.resLen := rfl
@[simp] theorem State.chipRead_gMode (a : Addr) (v : Byte) (s : State) : (s.chipRead a v).gMode = s.gMode := rfl
@[simp] theorem State.chipRead_gConfigured (a : Addr) (v : Byte) (s : State) : (s.chipRead a v).gConfigured = s.gConfigured := rfl
@[simp] theorem State.chipRead_regs (a : Addr) (v : Byte) (s : State) : (s.chipRead a v).regs = s.regs := rfl
@[simp] theorem State.chipRead_fifoIn (a : Addr) (v : Byte) (s : State) : (s.chipRead a v).fifoIn = s.fifoIn := rfl
@[simp] theorem State.chipRead_fifoOut (a : Addr) (v : Byte) (s : State) : (s.chipRead a v).fifoOut = (if a = s.cfg.addrFifo then s.fifoOut ++ [v] else s.fifoOut) := rfl
@[simp] theorem State.chipRead_buffer (a : Addr) (v : Byte) (s : State) : (s.chipRead a v).buffer = s.buffer := rfl
@[simp] theorem State.chipRead_bufEpoch (a : Addr) (v : Byte) (s : State) : (s.chipRead a v).bufEpoch = s.bufEpoch := rfl
@[simp] theorem State.chipRead_cfg (a : Addr) (v : Byte) (s : State) : (s.chipRead a v).cfg = s.cfg := rfl
@[simp] theorem State.chipRead_rx (a : Addr) (v : Byte) (s : State) : (s.chipRead a v).rx = s.rx := rfl
@[simp] theorem State.chipRead_drawn (a : Addr) (v : Byte) (s : State) : (s.chipRead a v).drawn = s.drawn := rfl
@[simp] theorem State.chipRead_opEpoch (a : Addr) (v : Byte) (s : State) : (s.chipRead a v).opEpoch = s.opEpoch := rfl
@[simp] theorem State.chipRead_arbiter (a : Addr) (v : Byte) (s : State) : (s.chipRead a v).arbiter = s.arbiter := rfl
@[simp] theorem State.chipRead_arbiterEnd (a : Addr) (v : Byte) (s : State) : (s.chipRead a v).arbiterEnd = s.arbiterEnd := rfl
@[simp] theorem State.chipRead_host (a : Addr) (v : Byte) (s : State) : (s.chipRead a v).host = s.host := rfl
@[simp] theorem State.chipRead_trace (a : Addr) (v : Byte) (s : State) : (s.chipRead a v).trace = s.trace := rfl

-- bufWr
@[simp] theorem State.bufWr_csN (i : Nat) (b : Byte) (s : State) : (s.bufWr i b).csN = s.csN := rfl
@[simp] theorem State.bufWr_ownsBus (i : Nat) (b : Byte) (s : State) : (s.bufWr i b).ownsBus = s.ownsBus := rfl
@[simp] theorem State.bufWr_cmd (i : Nat) (b : Byte) (s : State) : (s.bufWr i b).cmd = s.cmd := rfl
@[simp] theorem State.bufWr_seq (i : Nat) (b : Byte) (s : State) : (s.bufWr i b).seq = s.seq := rfl
@[simp] theorem State.bufWr_idx (i : Nat) (b : Byte) (s : State) : (s.bufWr i b).idx = s.idx := rfl
@[simp] theorem State.bufWr_rxd (i : Nat) (b : Byte) (s : State) : (s.bufWr i b).rxd = s.rxd := rfl
@[simp] theorem State.bufWr_svSync (i : Nat) (b : Byte) (s : State) : (s.bufWr i b).svSync = s.svSync := rfl
@[simp] theorem State.bufWr_svPlen (i : Nat) (b : Byte) (s : State) : (s.bufWr i b).svPlen = s.svPlen := rfl
@[simp] theorem State.bufWr_syncLen (i : Nat) (b : Byte) (s : State) : (s.bufWr i b).syncLen = s.syncLen := rfl
@[simp] theorem State.bufWr_syncTol (i : Nat) (b : Byte) (s : State) : (s.bufWr i b).syncTol = s.syncTol := rfl
@[simp] theorem State.bufWr_syncVal (i : Nat) (b : Byte) (s : State) : (s.bufWr i b).syncVal = s.syncVal := rfl
@[simp] theorem State.bufWr_rxPlen (i : Nat) (b : Byte) (s : State) : (s.bufWr i b).rxPlen = s.rxPlen := rfl
@[simp] theorem State.bufWr_cap (i : Nat) (b : Byte) (s : State) : (s.bufWr i b).cap = s.cap := rfl
@[simp] theorem State.bufWr_txLen (i : Nat) (b : Byte) (s : State) : (s.bufWr i b).txLen = s.txLen := rfl
@[simp] theorem State.bufWr_suppress (i : Nat) (b : Byte) (s : State) : (s.bufWr i b).suppress = s.suppress := rfl
@[simp] theorem State.bufWr_resReceived (i : Nat) (b : Byte) (s : State) : (s.bufWr i b).resReceived = s.resReceived := rfl
@[simp] theorem State.bufWr_resLen (i : Nat) (b : Byte) (s : State) : (s.bufWr i b).resLen = s.resLen := rfl
@[simp] theorem State.bufWr_gMode (i : Nat) (b : Byte) (s : State) : (s.bufWr i b).gMode = s.gMode := rfl
@[simp] theorem State.bufWr_gConfigured (i : Nat) (b : Byte) (s : State) : (s.bufWr i b).gConfigured = s.gConfigured := rfl
@[simp] theorem State.bufWr_regs (i : Nat) (b : Byte) (s : State) : (s.bufWr i b).regs = s.regs := rfl
@[simp] theorem State.bufWr_fifoIn (i : Nat) (b : Byte) (s : State) : (s.bufWr i b).fifoIn = s.fifoIn := rfl
@[simp] theorem State.bufWr_fifoOut (i : Nat) (b : Byte) (s : State) : (s.bufWr i b).fifoOut = s.fifoOut := rfl
@[simp] theorem State.bufWr_buffer (i : Nat) (b : Byte) (s : State) : (s.bufWr i b).buffer = s.buffer.write i b := rfl
@[simp] theorem State.bufWr_bufEpoch (i : Nat) (b : Byte) (s : State) : (s.bufWr i b).bufEpoch = s.bufEpoch := rfl
@[simp] theorem State.bufWr_cfg (i : Nat) (b : Byte) (s : State) : (s.bufWr i b).cfg = s.cfg := rfl
@[simp] theorem State.bufWr_rx (i : Nat) (b : Byte) (s : State) : (s.bufWr i b).rx = s.rx := rfl
@[simp] theorem State.bufWr_drawn (i : Nat) (b : Byte) (s : State) : (s.bufWr i b).drawn = s.drawn := rfl
@[simp] theorem State.bufWr_opEpoch (i : Nat) (b : Byte) (s : State) : (s.bufWr i b).opEpoch = s.opEpoch := rfl
@[simp] theorem State.bufWr_arbiter (i : Nat) (b : Byte) (s : State) : (s.bufWr i b).arbiter = s.arbiter := rfl
@[simp] theorem State.bufWr_arbiterEnd (i : Nat) (b : Byte) (s : State) : (s.bufWr i b).arbiterEnd = s.arbiterEnd := rfl
@[simp] theorem State.bufWr_host (i : Nat) (b : Byte) (s : State) : (s.bufWr i b).host = s.host := rfl
@[simp] theorem State.bufWr_trace (i : Nat) (b : Byte) (s : State) : (s.bufWr i b).trace = s.trace ++ [.bufWr i b] := rfl

-- accept
@[simp] theorem State.accept_csN (c : Instr) (k : Cmd) (l : Label) (s : State) : (s.accept c k l).csN = s.csN := rfl
@[simp] theorem State.accept_ownsBus (c : Instr) (k : Cmd) (l : Label) (s : State) : (s.accept c k l).ownsBus = s.ownsBus := rfl
@[simp] theorem State.accept_cmd (c : Instr) (k : Cmd) (l : Label) (s : State) : (s.accept c k l).cmd = k := rfl
@[simp] theorem State.accept_seq (c : Instr) (k : Cmd) (l : Label) (s : State) : (s.accept c k l).seq = l := rfl
@[simp] theorem State.accept_idx (c : Instr) (k : Cmd) (l : Label) (s : State) : (s.accept c k l).idx = s.idx := rfl
@[simp] theorem State.accept_rxd (c : Instr) (k : Cmd) (l : Label) (s : State) : (s.accept c k l).rxd = none := rfl
@[simp] theorem State.accept_svSync (c : Instr) (k : Cmd) (l : Label) (s : State) : (s.accept c k l).svSync = s.svSync := rfl
@[simp] theorem State.accept_svPlen (c : Instr) (k : Cmd) (l : Label) (s : State) : (s.accept c k l).svPlen = s.svPlen := rfl
@[simp] theorem State.accept_syncLen (c : Instr) (k : Cmd) (l : Label) (s : State) : (s.accept c k l).syncLen = Config.staleSyncLen s.opEpoch := rfl
@[simp] theorem State.accept_syncTol (c : Instr) (k : Cmd) (l : Label) (s : State) : (s.accept c k l).syncTol = Config.staleSyncTol s.opEpoch := rfl
@[simp] theorem State.accept_syncVal (c : Instr) (k : Cmd) (l : Label) (s : State) : (s.accept c k l).syncVal = staleCells s.opEpoch := rfl
@[simp] theorem State.accept_rxPlen (c : Instr) (k : Cmd) (l : Label) (s : State) : (s.accept c k l).rxPlen = Config.staleRxPlen s.opEpoch := rfl
@[simp] theorem State.accept_cap (c : Instr) (k : Cmd) (l : Label) (s : State) : (s.accept c k l).cap = Config.staleCap s.opEpoch := rfl
@[simp] theorem State.accept_txLen (c : Instr) (k : Cmd) (l : Label) (s : State) : (s.accept c k l).txLen = Config.staleTxLen s.opEpoch := rfl
@[simp] theorem State.accept_suppress (c : Instr) (k : Cmd) (l : Label) (s : State) : (s.accept c k l).suppress = Config.staleSuppress s.opEpoch := rfl
@[simp] theorem State.accept_resReceived (c : Instr) (k : Cmd) (l : Label) (s : State) : (s.accept c k l).resReceived = s.resReceived := rfl
@[simp] theorem State.accept_resLen (c : Instr) (k : Cmd) (l : Label) (s : State) : (s.accept c k l).resLen = s.resLen := rfl
@[simp] theorem State.accept_gMode (c : Instr) (k : Cmd) (l : Label) (s : State) : (s.accept c k l).gMode = s.gMode := rfl
@[simp] theorem State.accept_gConfigured (c : Instr) (k : Cmd) (l : Label) (s : State) : (s.accept c k l).gConfigured = s.gConfigured := rfl
@[simp] theorem State.accept_regs (c : Instr) (k : Cmd) (l : Label) (s : State) : (s.accept c k l).regs = s.regs := rfl
@[simp] theorem State.accept_fifoIn (c : Instr) (k : Cmd) (l : Label) (s : State) : (s.accept c k l).fifoIn = s.fifoIn := rfl
@[simp] theorem State.accept_fifoOut (c : Instr) (k : Cmd) (l : Label) (s : State) : (s.accept c k l).fifoOut = s.fifoOut := rfl
@[simp] theorem State.accept_buffer (c : Instr) (k : Cmd) (l : Label) (s : State) : (s.accept c k l).buffer = s.buffer := rfl
@[simp] theorem State.accept_bufEpoch (c : Instr) (k : Cmd) (l : Label) (s : State) : (s.accept c k l).bufEpoch = s.bufEpoch := rfl
@[simp] theorem State.accept_cfg (c : Instr) (k : Cmd) (l : Label) (s : State) : (s.accept c k l).cfg = s.cfg := rfl
@[simp] theorem State.accept_rx (c : Instr) (k : Cmd) (l : Label) (s : State) : (s.accept c k l).rx = s.rx := rfl
@[simp] theorem State.accept_drawn (c : Instr) (k : Cmd) (l : Label) (s : State) : (s.accept c k l).drawn = s.drawn := rfl
@[simp] theorem State.accept_opEpoch (c : Instr) (k : Cmd) (l : Label) (s : State) : (s.accept c k l).opEpoch = s.opEpoch + 1 := rfl
@[simp] theorem State.accept_arbiter (c : Instr) (k : Cmd) (l : Label) (s : State) : (s.accept c k l).arbiter = s.arbiter := rfl
@[simp] theorem State.accept_arbiterEnd (c : Instr) (k : Cmd) (l : Label) (s : State) : (s.accept c k l).arbiterEnd = s.arbiterEnd := rfl
@[simp] theorem State.accept_host (c : Instr) (k : Cmd) (l : Label) (s : State) : (s.accept c k l).host = s.host := rfl
@[simp] theorem State.accept_trace (c : Instr) (k : Cmd) (l : Label) (s : State) : (s.accept c k l).trace = s.trace ++ [.start c] := rfl

-- finish
@[simp] theorem State.finish_csN (r : Option (Bool × Byte)) (s : State) : (s.finish r).csN = s.csN := rfl
@[simp] theorem State.finish_ownsBus (r : Option (Bool × Byte)) (s : State) : (s.finish r).ownsBus = s.ownsBus := rfl
@[simp] theorem State.finish_cmd (r : Option (Bool × Byte)) (s : State) : (s.finish r).cmd = .none := rfl
@[simp] theorem State.finish_seq (r : Option (Bool × Byte)) (s : State) : (s.finish r).seq = .idle := rfl
@[simp] theorem State.finish_idx (r : Option (Bool × Byte)) (s : State) : (s.finish r).idx = s.idx := rfl
@[simp] theorem State.finish_rxd (r : Option (Bool × Byte)) (s : State) : (s.finish r).rxd = s.rxd := rfl
@[simp] theorem State.finish_svSync (r : Option (Bool × Byte)) (s : State) : (s.finish r).svSync = s.svSync := rfl
@[simp] theorem State.finish_svPlen (r : Option (Bool × Byte)) (s : State) : (s.finish r).svPlen = s.svPlen := rfl
@[simp] theorem State.finish_syncLen (r : Option (Bool × Byte)) (s : State) : (s.finish r).syncLen = Config.staleSyncLen s.opEpoch := rfl
@[simp] theorem State.finish_syncTol (r : Option (Bool × Byte)) (s : State) : (s.finish r).syncTol = Config.staleSyncTol s.opEpoch := rfl
@[simp] theorem State.finish_syncVal (r : Option (Bool × Byte)) (s : State) : (s.finish r).syncVal = staleCells s.opEpoch := rfl
@[simp] theorem State.finish_rxPlen (r : Option (Bool × Byte)) (s : State) : (s.finish r).rxPlen = Config.staleRxPlen s.opEpoch := rfl
@[simp] theorem State.finish_cap (r : Option (Bool × Byte)) (s : State) : (s.finish r).cap = Config.staleCap s.opEpoch := rfl
@[simp] theorem State.finish_txLen (r : Option (Bool × Byte)) (s : State) : (s.finish r).txLen = Config.staleTxLen s.opEpoch := rfl
@[simp] theorem State.finish_suppress (r : Option (Bool × Byte)) (s : State) : (s.finish r).suppress = Config.staleSuppress s.opEpoch := rfl
@[simp] theorem State.finish_resReceived (r : Option (Bool × Byte)) (s : State) : (s.finish r).resReceived = s.resReceived := rfl
@[simp] theorem State.finish_resLen (r : Option (Bool × Byte)) (s : State) : (s.finish r).resLen = s.resLen := rfl
@[simp] theorem State.finish_gMode (r : Option (Bool × Byte)) (s : State) : (s.finish r).gMode = s.gMode := rfl
@[simp] theorem State.finish_gConfigured (r : Option (Bool × Byte)) (s : State) : (s.finish r).gConfigured = s.gConfigured := rfl
@[simp] theorem State.finish_regs (r : Option (Bool × Byte)) (s : State) : (s.finish r).regs = s.regs := rfl
@[simp] theorem State.finish_fifoIn (r : Option (Bool × Byte)) (s : State) : (s.finish r).fifoIn = s.fifoIn := rfl
@[simp] theorem State.finish_fifoOut (r : Option (Bool × Byte)) (s : State) : (s.finish r).fifoOut = s.fifoOut := rfl
@[simp] theorem State.finish_buffer (r : Option (Bool × Byte)) (s : State) : (s.finish r).buffer = s.buffer := rfl
@[simp] theorem State.finish_bufEpoch (r : Option (Bool × Byte)) (s : State) : (s.finish r).bufEpoch = s.bufEpoch := rfl
@[simp] theorem State.finish_cfg (r : Option (Bool × Byte)) (s : State) : (s.finish r).cfg = s.cfg := rfl
@[simp] theorem State.finish_rx (r : Option (Bool × Byte)) (s : State) : (s.finish r).rx = s.rx := rfl
@[simp] theorem State.finish_drawn (r : Option (Bool × Byte)) (s : State) : (s.finish r).drawn = s.drawn := rfl
@[simp] theorem State.finish_opEpoch (r : Option (Bool × Byte)) (s : State) : (s.finish r).opEpoch = s.opEpoch + 1 := rfl
@[simp] theorem State.finish_arbiter (r : Option (Bool × Byte)) (s : State) : (s.finish r).arbiter = s.arbiter := rfl
@[simp] theorem State.finish_arbiterEnd (r : Option (Bool × Byte)) (s : State) : (s.finish r).arbiterEnd = s.arbiterEnd := rfl
@[simp] theorem State.finish_host (r : Option (Bool × Byte)) (s : State) : (s.finish r).host = s.host := rfl
@[simp] theorem State.finish_trace (r : Option (Bool × Byte)) (s : State) : (s.finish r).trace = s.trace ++ [.done r] := rfl

-- goto
@[simp] theorem State.goto_csN (l : Label) (s : State) : (s.goto l).csN = s.csN := rfl
@[simp] theorem State.goto_ownsBus (l : Label) (s : State) : (s.goto l).ownsBus = s.ownsBus := rfl
@[simp] theorem State.goto_cmd (l : Label) (s : State) : (s.goto l).cmd = s.cmd := rfl
@[simp] theorem State.goto_seq (l : Label) (s : State) : (s.goto l).seq = l := rfl
@[simp] theorem State.goto_idx (l : Label) (s : State) : (s.goto l).idx = s.idx := rfl
@[simp] theorem State.goto_rxd (l : Label) (s : State) : (s.goto l).rxd = s.rxd := rfl
@[simp] theorem State.goto_svSync (l : Label) (s : State) : (s.goto l).svSync = s.svSync := rfl
@[simp] theorem State.goto_svPlen (l : Label) (s : State) : (s.goto l).svPlen = s.svPlen := rfl
@[simp] theorem State.goto_syncLen (l : Label) (s : State) : (s.goto l).syncLen = s.syncLen := rfl
@[simp] theorem State.goto_syncTol (l : Label) (s : State) : (s.goto l).syncTol = s.syncTol := rfl
@[simp] theorem State.goto_syncVal (l : Label) (s : State) : (s.goto l).syncVal = s.syncVal := rfl
@[simp] theorem State.goto_rxPlen (l : Label) (s : State) : (s.goto l).rxPlen = s.rxPlen := rfl
@[simp] theorem State.goto_cap (l : Label) (s : State) : (s.goto l).cap = s.cap := rfl
@[simp] theorem State.goto_txLen (l : Label) (s : State) : (s.goto l).txLen = s.txLen := rfl
@[simp] theorem State.goto_suppress (l : Label) (s : State) : (s.goto l).suppress = s.suppress := rfl
@[simp] theorem State.goto_resReceived (l : Label) (s : State) : (s.goto l).resReceived = s.resReceived := rfl
@[simp] theorem State.goto_resLen (l : Label) (s : State) : (s.goto l).resLen = s.resLen := rfl
@[simp] theorem State.goto_gMode (l : Label) (s : State) : (s.goto l).gMode = s.gMode := rfl
@[simp] theorem State.goto_gConfigured (l : Label) (s : State) : (s.goto l).gConfigured = s.gConfigured := rfl
@[simp] theorem State.goto_regs (l : Label) (s : State) : (s.goto l).regs = s.regs := rfl
@[simp] theorem State.goto_fifoIn (l : Label) (s : State) : (s.goto l).fifoIn = s.fifoIn := rfl
@[simp] theorem State.goto_fifoOut (l : Label) (s : State) : (s.goto l).fifoOut = s.fifoOut := rfl
@[simp] theorem State.goto_buffer (l : Label) (s : State) : (s.goto l).buffer = s.buffer := rfl
@[simp] theorem State.goto_bufEpoch (l : Label) (s : State) : (s.goto l).bufEpoch = s.bufEpoch := rfl
@[simp] theorem State.goto_cfg (l : Label) (s : State) : (s.goto l).cfg = s.cfg := rfl
@[simp] theorem State.goto_rx (l : Label) (s : State) : (s.goto l).rx = s.rx := rfl
@[simp] theorem State.goto_drawn (l : Label) (s : State) : (s.goto l).drawn = s.drawn := rfl
@[simp] theorem State.goto_opEpoch (l : Label) (s : State) : (s.goto l).opEpoch = s.opEpoch := rfl
@[simp] theorem State.goto_arbiter (l : Label) (s : State) : (s.goto l).arbiter = s.arbiter := rfl
@[simp] theorem State.goto_arbiterEnd (l : Label) (s : State) : (s.goto l).arbiterEnd = s.arbiterEnd := rfl
@[simp] theorem State.goto_host (l : Label) (s : State) : (s.goto l).host = s.host := rfl
@[simp] theorem State.goto_trace (l : Label) (s : State) : (s.goto l).trace = s.trace := rfl

-- forgetChip
@[simp] theorem State.forgetChip_csN (s : State) : (s.forgetChip).csN = s.csN := rfl
@[simp] theorem State.forgetChip_ownsBus (s : State) : (s.forgetChip).ownsBus = s.ownsBus := rfl
@[simp] theorem State.forgetChip_cmd (s : State) : (s.forgetChip).cmd = s.cmd := rfl
@[simp] theorem State.forgetChip_seq (s : State) : (s.forgetChip).seq = s.seq := rfl
@[simp] theorem State.forgetChip_idx (s : State) : (s.forgetChip).idx = s.idx := rfl
@[simp] theorem State.forgetChip_rxd (s : State) : (s.forgetChip).rxd = s.rxd := rfl
@[simp] theorem State.forgetChip_svSync (s : State) : (s.forgetChip).svSync = s.svSync := rfl
@[simp] theorem State.forgetChip_svPlen (s : State) : (s.forgetChip).svPlen = s.svPlen := rfl
@[simp] theorem State.forgetChip_syncLen (s : State) : (s.forgetChip).syncLen = s.syncLen := rfl
@[simp] theorem State.forgetChip_syncTol (s : State) : (s.forgetChip).syncTol = s.syncTol := rfl
@[simp] theorem State.forgetChip_syncVal (s : State) : (s.forgetChip).syncVal = s.syncVal := rfl
@[simp] theorem State.forgetChip_rxPlen (s : State) : (s.forgetChip).rxPlen = s.rxPlen := rfl
@[simp] theorem State.forgetChip_cap (s : State) : (s.forgetChip).cap = s.cap := rfl
@[simp] theorem State.forgetChip_txLen (s : State) : (s.forgetChip).txLen = s.txLen := rfl
@[simp] theorem State.forgetChip_suppress (s : State) : (s.forgetChip).suppress = s.suppress := rfl
@[simp] theorem State.forgetChip_resReceived (s : State) : (s.forgetChip).resReceived = s.resReceived := rfl
@[simp] theorem State.forgetChip_resLen (s : State) : (s.forgetChip).resLen = s.resLen := rfl
@[simp] theorem State.forgetChip_gMode (s : State) : (s.forgetChip).gMode = s.gMode := rfl
@[simp] theorem State.forgetChip_gConfigured (s : State) : (s.forgetChip).gConfigured = s.gConfigured := rfl
@[simp] theorem State.forgetChip_regs (s : State) : (s.forgetChip).regs = [] := rfl
@[simp] theorem State.forgetChip_fifoIn (s : State) : (s.forgetChip).fifoIn = [] := rfl
@[simp] theorem State.forgetChip_fifoOut (s : State) : (s.forgetChip).fifoOut = [] := rfl
@[simp] theorem State.forgetChip_buffer (s : State) : (s.forgetChip).buffer = s.buffer := rfl
@[simp] theorem State.forgetChip_bufEpoch (s : State) : (s.forgetChip).bufEpoch = s.bufEpoch := rfl
@[simp] theorem State.forgetChip_cfg (s : State) : (s.forgetChip).cfg = s.cfg := rfl
@[simp] theorem State.forgetChip_rx (s : State) : (s.forgetChip).rx = s.rx := rfl
@[simp] theorem State.forgetChip_drawn (s : State) : (s.forgetChip).drawn = s.drawn := rfl
@[simp] theorem State.forgetChip_opEpoch (s : State) : (s.forgetChip).opEpoch = s.opEpoch := rfl
@[simp] theorem State.forgetChip_arbiter (s : State) : (s.forgetChip).arbiter = s.arbiter := rfl
@[simp] theorem State.forgetChip_arbiterEnd (s : State) : (s.forgetChip).arbiterEnd = s.arbiterEnd := rfl
@[simp] theorem State.forgetChip_host (s : State) : (s.forgetChip).host = s.host := rfl
@[simp] theorem State.forgetChip_trace (s : State) : (s.forgetChip).trace = s.trace := rfl

-- load
@[simp] theorem State.load_csN (data : List Byte) (s : State) : (s.load data).csN = s.csN := rfl
@[simp] theorem State.load_ownsBus (data : List Byte) (s : State) : (s.load data).ownsBus = s.ownsBus := rfl
@[simp] theorem State.load_cmd (data : List Byte) (s : State) : (s.load data).cmd = s.cmd := rfl
@[simp] theorem State.load_seq (data : List Byte) (s : State) : (s.load data).seq = s.seq := rfl
@[simp] theorem State.load_idx (data : List Byte) (s : State) : (s.load data).idx = s.idx := rfl
@[simp] theorem State.load_rxd (data : List Byte) (s : State) : (s.load data).rxd = s.rxd := rfl
@[simp] theorem State.load_svSync (data : List Byte) (s : State) : (s.load data).svSync = s.svSync := rfl
@[simp] theorem State.load_svPlen (data : List Byte) (s : State) : (s.load data).svPlen = s.svPlen := rfl
@[simp] theorem State.load_syncLen (data : List Byte) (s : State) : (s.load data).syncLen = s.syncLen := rfl
@[simp] theorem State.load_syncTol (data : List Byte) (s : State) : (s.load data).syncTol = s.syncTol := rfl
@[simp] theorem State.load_syncVal (data : List Byte) (s : State) : (s.load data).syncVal = s.syncVal := rfl
@[simp] theorem State.load_rxPlen (data : List Byte) (s : State) : (s.load data).rxPlen = s.rxPlen := rfl
@[simp] theorem State.load_cap (data : List Byte) (s : State) : (s.load data).cap = s.cap := rfl
@[simp] theorem State.load_txLen (data : List Byte) (s : State) : (s.load data).txLen = s.txLen := rfl
@[simp] theorem State.load_suppress (data : List Byte) (s : State) : (s.load data).suppress = s.suppress := rfl
@[simp] theorem State.load_resReceived (data : List Byte) (s : State) : (s.load data).resReceived = s.resReceived := rfl
@[simp] theorem State.load_resLen (data : List Byte) (s : State) : (s.load data).resLen = s.resLen := rfl
@[simp] theorem State.load_gMode (data : List Byte) (s : State) : (s.load data).gMode = s.gMode := rfl
@[simp] theorem State.load_gConfigured (data : List Byte) (s : State) : (s.load data).gConfigured = s.gConfigured := rfl
@[simp] theorem State.load_regs (data : List Byte) (s : State) : (s.load data).regs = s.regs := rfl
@[simp] theorem State.load_fifoIn (data : List Byte) (s : State) : (s.load data).fifoIn = s.fifoIn := rfl
@[simp] theorem State.load_fifoOut (data : List Byte) (s : State) : (s.load data).fifoOut = s.fifoOut := rfl
@[simp] theorem State.load_buffer (data : List Byte) (s : State) : (s.load data).buffer = Memory.ofBytes 0 data := rfl
@[simp] theorem State.load_bufEpoch (data : List Byte) (s : State) : (s.load data).bufEpoch = s.bufEpoch + 1 := rfl
@[simp] theorem State.load_cfg (data : List Byte) (s : State) : (s.load data).cfg = s.cfg := rfl
@[simp] theorem State.load_rx (data : List Byte) (s : State) : (s.load data).rx = s.rx := rfl
@[simp] theorem State.load_drawn (data : List Byte) (s : State) : (s.load data).drawn = s.drawn := rfl
@[simp] theorem State.load_opEpoch (data : List Byte) (s : State) : (s.load data).opEpoch = s.opEpoch := rfl
@[simp] theorem State.load_arbiter (data : List Byte) (s : State) : (s.load data).arbiter = s.arbiter := rfl
@[simp] theorem State.load_arbiterEnd (data : List Byte) (s : State) : (s.load data).arbiterEnd = s.arbiterEnd := rfl
@[simp] theorem State.load_host (data : List Byte) (s : State) : (s.load data).host = s.host := rfl
@[simp] theorem State.load_trace (data : List Byte) (s : State) : (s.load data).trace = s.trace := rfl

-- resetMaster
@[simp] theorem State.resetMaster_csN (s : State) : s.resetMaster.csN = 1 := rfl
@[simp] theorem State.resetMaster_ownsBus (s : State) : s.resetMaster.ownsBus = false := rfl
@[simp] theorem State.resetMaster_cmd (s : State) : s.resetMaster.cmd = .none := rfl
@[simp] theorem State.resetMaster_seq (s : State) : s.resetMaster.seq = .idle := rfl
@[simp] theorem State.resetMaster_idx (s : State) : s.resetMaster.idx = 0 := rfl
@[simp] theorem State.resetMaster_rxd (s : State) : s.resetMaster.rxd = none := rfl
@[simp] theorem State.resetMaster_svSync (s : State) : s.resetMaster.svSync = none := rfl
@[simp] theorem State.resetMaster_svPlen (s : State) : s.resetMaster.svPlen = none := rfl
@[simp] theorem State.resetMaster_syncLen (s : State) : s.resetMaster.syncLen = 0 := rfl
@[simp] theorem State.resetMaster_syncTol (s : State) : s.resetMaster.syncTol = 0 := rfl
@[simp] theorem State.resetMaster_syncVal (s : State) : s.resetMaster.syncVal = #v[0, 0, 0, 0, 0, 0, 0, 0] := rfl
@[simp] theorem State.resetMaster_rxPlen (s : State) : s.resetMaster.rxPlen = 0 := rfl
@[simp] theorem State.resetMaster_cap (s : State) : s.resetMaster.cap = 0 := rfl
@[simp] theorem State.resetMaster_txLen (s : State) : s.resetMaster.txLen = 0 := rfl
@[simp] theorem State.resetMaster_suppress (s : State) : s.resetMaster.suppress = false := rfl
@[simp] theorem State.resetMaster_resReceived (s : State) : s.resetMaster.resReceived = false := rfl
@[simp] theorem State.resetMaster_resLen (s : State) : s.resetMaster.resLen = 0 := rfl
@[simp] theorem State.resetMaster_gMode (s : State) : s.resetMaster.gMode = .unknown := rfl
@[simp] theorem State.resetMaster_gConfigured (s : State) : s.resetMaster.gConfigured = false := rfl
@[simp] theorem State.resetMaster_regs (s : State) : s.resetMaster.regs = s.regs := rfl
@[simp] theorem State.resetMaster_fifoIn (s : State) : s.resetMaster.fifoIn = s.fifoIn := rfl
@[simp] theorem State.resetMaster_fifoOut (s : State) : s.resetMaster.fifoOut = s.fifoOut := rfl
@[simp] theorem State.resetMaster_buffer (s : State) : s.resetMaster.buffer = s.buffer := rfl
@[simp] theorem State.resetMaster_bufEpoch (s : State) : s.resetMaster.bufEpoch = s.bufEpoch := rfl
@[simp] theorem State.resetMaster_cfg (s : State) : s.resetMaster.cfg = s.cfg := rfl
@[simp] theorem State.resetMaster_rx (s : State) : s.resetMaster.rx = s.rx := rfl
@[simp] theorem State.resetMaster_drawn (s : State) : s.resetMaster.drawn = s.drawn := rfl
@[simp] theorem State.resetMaster_opEpoch (s : State) : s.resetMaster.opEpoch = s.opEpoch := rfl
@[simp] theorem State.resetMaster_arbiter (s : State) : s.resetMaster.arbiter = s.arbiter := rfl
@[simp] theorem State.resetMaster_arbiterEnd (s : State) : s.resetMaster.arbiterEnd = s.arbiterEnd := rfl
@[simp] theorem State.resetMaster_host (s : State) : s.resetMaster.host = s.host := rfl
@[simp] theorem State.resetMaster_trace (s : State) : s.resetMaster.trace = s.trace := rfl

end Sys2Proof.Machine
end

