-- ==== Sys2Proof/Laws/Ops.lean ====
section
/-! SUPPORT. What each shared operation can do, said once: memory, the oracle's answers, and the brackets in closed
form. -/

namespace Sys2Proof.Machine

/-! Memory -/

@[simp] theorem Memory.read?_nil (a : Nat) : Memory.read? [] a = none := rfl

theorem Memory.read?_write_self (m : Memory) (a : Nat) (v : Byte) : (Memory.write m a v).read? a = some v := by
  induction m with
  | nil => simp [Memory.write, Memory.read?]
  | cons c m ih =>
    obtain ⟨k, x⟩ := c
    simp only [Memory.write]
    split
    · simp [Memory.read?]
    · split
      · simp [Memory.read?]
      · simp only [Memory.read?, ih]; split <;> first | rfl | omega

theorem Memory.read?_write_other (m : Memory) (a b : Nat) (v : Byte) (h : b ≠ a) :
    (Memory.write m a v).read? b = m.read? b := by
  induction m with
  | nil => simp [Memory.write, Memory.read?, Ne.symm h]
  | cons c m ih =>
    obtain ⟨k, x⟩ := c
    simp only [Memory.write]
    split
    · simp [Memory.read?, Ne.symm h]
    · split
      · next _ hk => subst hk; simp [Memory.read?, Ne.symm h]
      · simp only [Memory.read?, ih]

/-- Every key of a written memory is the address written or a key it had. -/
theorem Memory.mem_write {m : Memory} {a : Nat} {v : Byte} {c : Host.Cell} (h : c ∈ Memory.write m a v) :
    c = (a, v) ∨ c ∈ m := by
  induction m with
  | nil => simpa [Memory.write] using h
  | cons d m ih =>
    obtain ⟨k, x⟩ := d
    simp only [Memory.write] at h
    split at h
    · simpa using h
    · split at h
      · simp only [List.mem_cons] at h ⊢; tauto
      · simp only [List.mem_cons] at h ⊢
        rcases h with h | h
        · exact .inr (.inl h)
        · rcases ih h with h | h <;> tauto

theorem Memory.wf_cons {k : Nat} {x : Byte} {m : Memory} :
    Memory.wf ((k, x) :: m) = true ↔ (∀ c ∈ m, k < c.1) ∧ Memory.wf m = true := by
  simp [Memory.wf, List.pairwise_map]

/-- A write keeps the canonical form. -/
theorem Memory.wf_write (m : Memory) (a : Nat) (v : Byte) (h : m.wf = true) : (Memory.write m a v).wf = true := by
  induction m with
  | nil => simp [Memory.write, Memory.wf]
  | cons c m ih =>
    obtain ⟨k, x⟩ := c
    rw [Memory.wf_cons] at h
    simp only [Memory.write]
    split
    · next hk =>
      rw [Memory.wf_cons, Memory.wf_cons]
      refine ⟨fun c hc => ?_, h⟩
      rcases List.mem_cons.1 hc with rfl | hc
      · exact hk
      · exact hk.trans (h.1 c hc)
    · split
      · next hk => subst hk; exact Memory.wf_cons.2 h
      · refine Memory.wf_cons.2 ⟨fun c hc => ?_, ih h.2⟩
        rcases Memory.mem_write hc with rfl | hc
        · simp only; omega
        · exact h.1 c hc

/-- Bytes laid from an index on have keys from that index on. -/
theorem Memory.le_of_mem_ofBytes {i : Nat} {bs : List Byte} {c : Host.Cell} (h : c ∈ Memory.ofBytes i bs) : i ≤ c.1 := by
  induction bs generalizing i with
  | nil => simp [Memory.ofBytes] at h
  | cons b bs ih =>
    simp only [Memory.ofBytes, List.mem_cons] at h
    rcases h with rfl | h
    · exact Nat.le_refl i
    · exact Nat.le_of_succ_le (ih h)

/-- What `load` puts into the buffer is in canonical form. -/
theorem Memory.wf_ofBytes (i : Nat) (bs : List Byte) : (Memory.ofBytes i bs).wf = true := by
  induction bs generalizing i with
  | nil => rfl
  | cons b bs ih => exact Memory.wf_cons.2 ⟨fun c hc => Memory.le_of_mem_ofBytes hc, ih (i + 1)⟩

@[simp] theorem Memory.wf_nil : Memory.wf [] = true := rfl

/-! The oracle's answers -/

@[simp] theorem State.answer_eq (s : State) : s.answer = s.answerAt 0 := by
  unfold State.answer State.answerAt
  cases s.rx <;> rfl

theorem State.answerAt_of_rx {s t : State} (n : Nat) (hr : t.rx = s.rx.drop n)
    (hd : t.drawn = s.drawn + (n - s.rx.length)) (k : Nat) : t.answerAt k = s.answerAt (n + k) := by
  unfold State.answerAt
  rw [hr, hd, List.getElem?_drop]
  cases h : s.rx[n + k]? with
  | some b => rfl
  | none =>
    rw [List.getElem?_eq_none_iff] at h
    simp only [List.length_drop]
    congr 1
    omega

/-- Two states with the same script and counter have the same answers to come. -/
theorem State.answerAt_congr {s t : State} (hr : t.rx = s.rx) (hd : t.drawn = s.drawn) (k : Nat) :
    t.answerAt k = s.answerAt k := by
  unfold State.answerAt; rw [hr, hd]

theorem State.xfer_rx_drop (t : Byte) (s : State) : (s.xfer t).rx = s.rx.drop 1 := by simp

theorem State.xfer_drawn_add (t : Byte) (s : State) : (s.xfer t).drawn = s.drawn + (1 - s.rx.length) := by
  cases h : s.rx <;> simp [h]

@[simp] theorem State.answerAt_xfer (t : Byte) (s : State) (k : Nat) : (s.xfer t).answerAt k = s.answerAt (1 + k) :=
  State.answerAt_of_rx 1 (s.xfer_rx_drop t) (s.xfer_drawn_add t) k

@[simp] theorem State.answerAt_openBracket (s : State) (k : Nat) : s.openBracket.answerAt k = s.answerAt k := rfl

/-- Taking `n` answers and then `m` more is taking `n + m`. -/
theorem drawn_add (d l n m : Nat) : d + (n - l) + (m - (l - n)) = d + (n + m - l) := by omega

/-! The brackets in closed form -/

/-- A W frame's bracket is the transaction of R110. -/
theorem State.writeFrame_eq (a : Addr) (v : Byte) (s : State) : s.writeFrame a v = s.wrote a v := by
  unfold State.writeFrame State.wrote State.afterBracket writeEvents
  cases h : s.rx with
  | nil => simp [State.xfer, State.openBracket, State.closeBracket, State.chipWrite, State.answer, State.answerAt, h]
  | cons b bs =>
    cases h' : bs <;>
      simp [State.xfer, State.openBracket, State.closeBracket, State.chipWrite, State.answer, State.answerAt, h, h']

/-- An R frame's bracket is the transaction of R113. -/
theorem State.readFrame_eq (a : Addr) (d : Byte) (s : State) : s.readFrame a d = s.didRead a d := by
  unfold State.readFrame State.didRead State.afterBracket readEvents
  cases h : s.rx with
  | nil => simp [State.xfer, State.openBracket, State.closeBracket, State.chipRead, State.answer, State.answerAt, h]
  | cons b bs =>
    cases h' : bs <;>
      simp [State.xfer, State.openBracket, State.closeBracket, State.chipRead, State.answer, State.answerAt, h, h']

/-- A second write to the same place replaces the first. -/
theorem Memory.write_write_self (m : Memory) (a : Nat) (v w : Byte) :
    Memory.write (Memory.write m a v) a w = Memory.write m a w := by
  induction m with
  | nil => simp [Memory.write]
  | cons c m ih =>
    obtain ⟨k, x⟩ := c
    by_cases h1 : a < k
    · simp [Memory.write, h1]
    · by_cases h2 : a = k
      · subst h2; simp [Memory.write]
      · simp [Memory.write, h1, h2, ih]

/-- Fields the loops of R83 and R116 leave. -/
theorem State.bufByte_congr {s t : State} (hb : t.buffer = s.buffer) (he : t.bufEpoch = s.bufEpoch) (i : Nat) :
    t.bufByte i = s.bufByte i := by
  unfold State.bufByte; rw [hb, he]

/-- What the loop of R116 leaves after `k` bytes from index `i` on. -/
def State.looped (i k : Nat) (s : State) : State :=
  { s with
    idx := BitVec.ofNat 8 (i + k)
    rx := s.rx.drop k
    drawn := s.drawn + (k - s.rx.length)
    regs := if k = 0 then s.regs else s.regs.write s.cfg.addrFifo.toNat (s.bufByte (i + k - 1))
    fifoIn := s.fifoIn ++ (List.range k).map (fun j => s.bufByte (i + j))
    trace := s.trace ++
      (List.range k).flatMap (fun j => [.bufRd (i + j) (s.bufByte (i + j)), .x (s.bufByte (i + j)) (s.answerAt j)]) }

theorem not_isClear_fifo (p : Params) (v : Byte) : isClear p p.addrFifo v = false := by simp [isClear]

theorem State.sendNext_eq (i : Nat) (s : State) (hi : s.idx = BitVec.ofNat 8 i) (hb : i < 256) :
    s.sendNext = s.looped i 1 := by
  have hn : s.idx.toNat = i := by rw [hi]; simp; omega
  have hx : s.idx + 1#8 = BitVec.ofNat 8 (i + 1) := by rw [hi, BitVec.ofNat_add]
  unfold State.sendNext State.looped
  rw [hn]
  cases h : s.rx <;>
    simp [State.xfer, State.emit, State.chipWrite, State.answer, State.answerAt, h, hx, not_isClear_fifo]

theorem State.looped_looped (i k : Nat) (s : State) :
    (s.looped i 1).looped (i + 1) k = s.looped i (k + 1) := by
  have hb : ∀ j, (s.looped i 1).bufByte j = s.bufByte j := fun j => State.bufByte_congr rfl rfl j
  have ha : ∀ j, (s.looped i 1).answerAt j = s.answerAt (1 + j) := fun j => State.answerAt_of_rx 1 rfl rfl j
  have he : s.rx.tail.length = s.rx.length - 1 := by simp
  unfold State.looped at *
  simp only [hb, ha]
  simp only [List.drop_one, he, List.range_succ_eq_map, List.map_cons, List.map_map, List.flatMap_cons,
    List.flatMap_map, Function.comp_def]
  cases k with
  | zero => simp
  | succ k =>
    have h2 : ∀ j, i + 1 + j = i + (j + 1) := fun j => by omega
    have h3 : s.drawn + (1 - s.rx.length) + (k + 1 - (s.rx.length - 1)) = s.drawn + (k + 1 + 1 - s.rx.length) := by omega
    have h4 : ∀ j, 1 + j = j + 1 := fun j => by omega
    simp [h2, h3, h4, Memory.write_write_self, List.range_succ_eq_map, List.flatMap_map, Function.comp_def]

theorem State.sendBuffer_eq (k i : Nat) (s : State) (hi : s.idx = BitVec.ofNat 8 i) (hb : i + k ≤ 256) :
    State.sendBuffer k s = s.looped i k := by
  induction k generalizing i s with
  | zero => unfold State.sendBuffer State.looped; simp [← hi]
  | succ k ih =>
    unfold State.sendBuffer
    rw [State.sendNext_eq i s hi (by omega), ih (i + 1) _ (by simp [State.looped]) (by omega), State.looped_looped]

@[simp] theorem State.answerAt_startBurst (a : Addr) (s : State) (k : Nat) :
    (s.startBurst a).answerAt k = s.answerAt (k + 1) := by
  have h : (s.startBurst a).answerAt k = s.answerAt (1 + k) :=
    State.answerAt_xfer (addrByte true a) s.openBracket k
  rwa [Nat.add_comm] at h

@[simp] theorem State.bufByte_startBurst (a : Addr) (s : State) (k : Nat) : (s.startBurst a).bufByte k = s.bufByte k :=
  State.bufByte_congr rfl rfl k

/-- The opening of a burst takes one answer, whether scripted or free. -/
theorem drawn_startBurst (l : List Byte) (d n : Nat) :
    (if l = [] then d + 1 else d) + (n - (l.length - 1)) = d + (n + 1 - l.length) := by
  cases l with
  | nil => simp; omega
  | cons b l => simp

/-- FIFOWR's bracket is the transaction of R116. -/
theorem State.fifoFrame_eq (n : Byte) (s : State) : s.fifoFrame n = s.sentBuffer n.toNat := by
  have hn := n.isLt
  unfold State.fifoFrame
  rw [State.sendBuffer_eq n.toNat 0 _ rfl (by omega)]
  unfold State.looped State.sentBuffer State.afterBracket fifoEvents State.closeBracket
  simp [drawn_startBurst]

theorem burstRegs_cons (a : Addr) (b : Byte) (data : List Byte) (m : Memory) :
    burstRegs a data (m.write a.toNat b) = burstRegs a (b :: data) m := by
  unfold burstRegs
  cases data with
  | nil => simp
  | cons c ds =>
    rw [List.getLast?_cons_cons]
    cases h : (c :: ds).getLast? with
    | none => simp at h
    | some x => simp [Memory.write_write_self]

/-- What the data bytes of a burst leave (R83), `idx` counting from `i`. -/
theorem State.sendBytes_eq (a : Addr) (data : List Byte) (i : Nat) (s : State) (hi : s.idx = BitVec.ofNat 8 i) :
    State.sendBytes a data s =
      { s with
        idx := BitVec.ofNat 8 (i + data.length)
        rx := s.rx.drop data.length
        drawn := s.drawn + (data.length - s.rx.length)
        regs := burstRegs a data s.regs
        fifoIn :=
          if data.any (isClear s.cfg a) then [] else if a = s.cfg.addrFifo then s.fifoIn ++ data else s.fifoIn
        fifoOut := if data.any (isClear s.cfg a) then [] else s.fifoOut
        trace := s.trace ++ data.mapIdx (fun j b => .x b (s.answerAt j)) } := by
  induction data generalizing i s with
  | nil => unfold State.sendBytes; simp [← hi, burstRegs]
  | cons b data ih =>
    unfold State.sendBytes
    have hx : s.idx + 1#8 = BitVec.ofNat 8 (i + 1) := by rw [hi, BitVec.ofNat_add]
    rw [ih (i + 1) _ (by simpa using hx)]
    have ha : ∀ j, ({ (s.xfer b).chipWrite a b with idx := s.idx + 1 } : State).answerAt j = s.answerAt (j + 1) := by
      intro j
      rw [Nat.add_comm j 1]
      exact State.answerAt_xfer b s j
    simp only [ha]
    have hd : (if s.rx = [] then s.drawn + 1 else s.drawn) + (data.length - (s.rx.length - 1))
        = s.drawn + (data.length + 1 - s.rx.length) := drawn_startBurst _ _ _
    have hf : a = s.cfg.addrFifo → ∀ v, isClear s.cfg a v = false := fun h v => h ▸ not_isClear_fifo _ v
    have hi2 : i + 1 + data.length = i + (data.length + 1) := by omega
    by_cases hc : isClear s.cfg a b = true
    · have hn : a ≠ s.cfg.addrFifo := fun h => by simp [hf h b] at hc
      simp [hd, hi2, burstRegs_cons, hc, hn, List.mapIdx_cons]
    · by_cases ha' : a = s.cfg.addrFifo
      · subst ha'; simp [hd, hi2, burstRegs_cons, List.mapIdx_cons, not_isClear_fifo]
      · simp [hd, hi2, burstRegs_cons, hc, ha', List.mapIdx_cons]

/-- A BW frame's bracket is the transaction of R83 and R116. -/
theorem State.burstFrame_eq (a : Addr) (data : List Byte) (s : State) : s.burstFrame a data = s.sentBurst a data := by
  unfold State.burstFrame
  rw [State.sendBytes_eq a data 0 _ rfl]
  unfold State.sentBurst State.afterBracket burstEvents State.closeBracket
  have hd : (s.startBurst a).drawn + (data.length - (s.startBurst a).rx.length)
      = s.drawn + (data.length + 1 - s.rx.length) := by simp [drawn_startBurst]
  simp only [hd, State.answerAt_startBurst]
  simp
  rfl

/-- `withBus` either holds or runs the transaction, and always goes on. -/
theorem withBus_cases (s : State) (f : State → State) :
    (s.busHeld = true ∧ withBus s f = .next s.hold) ∨ (s.busHeld = false ∧ withBus s f = .next (f s)) := by
  unfold withBus
  cases s.busHeld <;> simp

theorem withBus_granted {s : State} (f : State → State) (h : s.busHeld = false) : withBus s f = .next (f s) := by
  simp [withBus, h]

/-- Below the first address nothing is listed. -/
theorem Memory.read?_ofBytes_below (i j : Nat) (data : List Byte) (h : j < i) : (Memory.ofBytes i data).read? j = none := by
  induction data generalizing i with
  | nil => rfl
  | cons b bs ih =>
    have hne : ¬i = j := by omega
    simp only [Memory.ofBytes, Memory.read?, hne, if_false]
    exact ih (i + 1) (by omega)

/-- Bytes put at consecutive addresses are read back from them. -/
theorem Memory.read?_ofBytes (i j : Nat) (data : List Byte) : (Memory.ofBytes i data).read? (i + j) = data[j]? := by
  induction data generalizing i j with
  | nil => rfl
  | cons b bs ih =>
    cases j with
    | zero => simp [Memory.ofBytes, Memory.read?]
    | succ j =>
      have hne : ¬i = i + (j + 1) := by omega
      simp only [Memory.ofBytes, Memory.read?, hne, if_false, List.getElem?_cons_succ]
      rw [← ih (i + 1) j]
      congr 1
      omega

/-! The canonical form is kept -/

theorem State.memOk_chipWrite (a : Addr) (v : Byte) (s : State) (h : s.memOk = true) : (s.chipWrite a v).memOk = true := by
  simp only [State.memOk, Bool.and_eq_true, List.all_eq_true, decide_eq_true_eq, State.chipWrite_regs,
    State.chipWrite_buffer] at h ⊢
  refine ⟨⟨Memory.wf_write _ _ _ h.1.1, h.1.2⟩, fun c hc => ?_⟩
  rcases Memory.mem_write hc with rfl | hc
  · exact a.isLt
  · exact h.2 c hc

theorem State.memOk_bufWr (i : Nat) (b : Byte) (s : State) (h : s.memOk = true) : (s.bufWr i b).memOk = true := by
  simp only [State.memOk, Bool.and_eq_true, State.bufWr_regs, State.bufWr_buffer] at h ⊢
  exact ⟨⟨h.1.1, Memory.wf_write _ _ _ h.1.2⟩, h.2⟩

theorem State.memOk_load (data : List Byte) (s : State) (h : s.memOk = true) : (s.load data).memOk = true := by
  simp only [State.memOk, Bool.and_eq_true, State.load_regs, State.load_buffer] at h ⊢
  exact ⟨⟨h.1.1, Memory.wf_ofBytes 0 data⟩, h.2⟩

theorem State.memOk_forgetChip (s : State) (h : s.memOk = true) : s.forgetChip.memOk = true := by
  simp only [State.memOk, Bool.and_eq_true, State.forgetChip_regs, State.forgetChip_buffer] at h ⊢
  exact ⟨⟨rfl, h.1.2⟩, rfl⟩

theorem State.memOk_resetMaster (s : State) : s.resetMaster.memOk = s.memOk := rfl

theorem reset_memOk : State.reset.memOk = true := by decide

end Sys2Proof.Machine
end

