-- ==== Sys2Proof/Laws/Chip.lean ====
section
/-! SUPPORT. SimChip under binding B0 satisfies the six named assumptions (95_test_vectors.md H1, its last sentence), whatever
the master sends and whatever frames arrive, so that none of them is a premise nothing meets. -/

namespace Sys2Proof.Machine

/-! What a transaction leaves of SimChip -/

@[simp] theorem Chip.write_fifo_reg (c : Chip) (v : Byte) :
    c.write Config.b0 Config.b0.addrFifo v = { c with fifo := c.fifo ++ [v] } := rfl

theorem Chip.write_clear (c : Chip) :
    c.write Config.b0 Config.b0.clrAddr Config.b0.clrVal = { c with fifo := [], pr := false, ps := false } := rfl

/-- A register that is neither the FIFO's nor the clearing one holds the byte last given to it. -/
theorem Chip.write_cell (c : Chip) (b a : Addr) (v : Byte) (hf : a ≠ 0x00) (hc : a ≠ 0x28) :
    (c.write Config.b0 b v).cell a = if b = a then v else c.cell a := by
  by_cases hb : b = a
  · subst hb
    have h1 : ¬ b = Config.b0.addrFifo := hf
    have h2 : isClear Config.b0 b v = false := by
      have : (b == Config.b0.clrAddr) = false := beq_eq_false_iff_ne.2 hc
      simp [isClear, this]
    simp only [Chip.write, if_neg h1, h2, Bool.false_eq_true, if_false, if_true]
    split <;> simp [Chip.cell, Memory.read?_write_self]
  · have hn : a.toNat ≠ b.toNat := fun h => hb (BitVec.eq_of_toNat_eq h.symm)
    simp only [if_neg hb]
    unfold Chip.write
    repeat' split
    all_goals simp [Chip.cell, Memory.read?_write_other _ _ _ _ hn]

/-- Only the mode register and the clearing write change what SimChip's transmission counts on. -/
theorem Chip.write_ps (c : Chip) (b : Addr) (v : Byte) (hm : b ≠ Config.b0.addrMode)
    (hc : b = Config.b0.clrAddr → v ≠ Config.b0.clrVal) :
    (c.write Config.b0 b v).ps = c.ps ∧ (c.write Config.b0 b v).cnt = c.cnt := by
  have h2 : isClear Config.b0 b v = false := by
    by_cases h : b = Config.b0.clrAddr
    · simp [isClear, hc h]
    · simp [isClear, h]
  simp only [Chip.write, h2, Bool.false_eq_true, if_false, if_neg hm]
  split <;> exact ⟨rfl, rfl⟩

theorem Chip.read_reg (c : Chip) (a : Addr) : (c.read Config.b0 a).2.reg = c.reg := by
  unfold Chip.read Chip.transmit
  repeat' split
  all_goals rfl

/-- A transaction leaves in a plain register the byte last given to it. -/
theorem Chip.answers_cell {c c' : Chip} {t : Txn} (h : c.answers Config.b0 t = some c') (a : Addr) (hf : a ≠ 0x00)
    (hc : a ≠ 0x28) : c'.cell a = (t.given a).getLast?.getD (c.cell a) := by
  cases t with
  | w b v =>
    cases h
    rw [Chip.write_cell _ _ _ _ hf hc]
    simp only [Txn.given]
    split <;> rfl
  | r b v =>
    simp only [Chip.answers] at h
    split at h
    · cases h
      simp [Chip.cell, Chip.read_reg, Txn.given]
    · cases h
  | bw b data =>
    cases h
    induction data using List.reverseRecOn with
    | nil => simp [Txn.given]
    | append_singleton ds d ih =>
      rw [List.foldl_append, List.foldl_cons, List.foldl_nil, Chip.write_cell _ _ _ _ hf hc, ih]
      simp only [Txn.given]
      split <;> simp

/-- A frame is received in Receive mode. -/
theorem Chip.after_receive {c c' : Chip} {frame : List Byte} (h : c.after Config.b0 (.receive frame) = some c') :
    c.cell Config.b0.addrMode = Config.b0.valReceive ∧ c' = { c with fifo := frame, pr := true } := by
  simp only [Chip.after] at h
  split at h
  · next hm =>
    cases h
    refine ⟨hm, ?_⟩
    unfold Chip.inject
    rw [if_pos hm]
  · cases h

/-- A register over any act but a reset. -/
theorem Chip.after_cell {c c' : Chip} {x : ChipAct} (h : c.after Config.b0 x = some c') (hr : x ≠ .reset) (a : Addr)
    (hf : a ≠ 0x00) (hc : a ≠ 0x28) : c'.cell a = (x.given a).getLast?.getD (c.cell a) := by
  cases x with
  | txn t => exact Chip.answers_cell h a hf hc
  | receive frame => rw [(Chip.after_receive h).2]; rfl
  | own => cases h; rfl
  | reset => exact absurd rfl hr

/-- The mode register keeps its byte over an act that does not change the mode. -/
theorem Chip.after_mode {c c' : Chip} {x : ChipAct} (h : c.after Config.b0 x = some c')
    (hx : x.changesMode Config.b0 = false) : c'.cell Config.b0.addrMode = c.cell Config.b0.addrMode := by
  simp only [ChipAct.changesMode, Bool.or_eq_false_iff, beq_eq_false_iff_ne, bne_eq_false_iff_eq] at hx
  rw [Chip.after_cell h hx.1 _ (by decide) (by decide), hx.2]
  rfl

/-- SimChip's mode is the one its mode register names. -/
theorem Chip.view_mode (c : Chip) (m : Mode) :
    (c.view Config.b0).mode = some m ↔ c.cell Config.b0.addrMode = Config.b0.modeVal m := by
  unfold Chip.view
  constructor
  · simp only
    split
    · rintro ⟨⟩; assumption
    · split
      · rintro ⟨⟩; assumption
      · split
        · rintro ⟨⟩; assumption
        · intro h; cases h
  · intro h
    cases m <;> simp only [h] <;> rfl

/-- The flag register's bits read back (R33). -/
theorem simChip_flags (pr fne ps : Bool) :
    let v := Chip.flagBits 0x28 Config.b0.flagPr pr ||| Chip.flagBits 0x28 Config.b0.flagFne fne |||
      Chip.flagBits 0x28 Config.b0.flagPs ps
    flagSet Config.b0 .pr v = pr ∧ flagSet Config.b0 .fne v = fne ∧ flagSet Config.b0 .ps v = ps := by
  cases pr <;> cases fne <;> cases ps <;> decide

/-- A read of the flag register: a transmission goes on, and each flag reads as it then is. -/
theorem Chip.after_flag_read {c c' : Chip} {x : ChipAct} {f : Flag} {b : Byte} (h : c.after Config.b0 x = some c')
    (hx : x.reads (Config.b0.flag f).addr = some b) :
    c' = c.transmit Config.b0 ∧ flagSet Config.b0 f b = (c'.view Config.b0).flag f := by
  have ha : (Config.b0.flag f).addr = 0x28 := by cases f <;> rfl
  rw [ha] at hx
  cases x with
  | txn t =>
    cases t with
    | r a v =>
      simp only [ChipAct.reads] at hx
      split at hx
      · next e =>
        subst e
        cases hx
        simp only [Chip.after, Chip.answers] at h
        split at h
        · next e =>
          cases h
          have h2 : (c.read Config.b0 0x28).2 = c.transmit Config.b0 := rfl
          have h1 : (c.read Config.b0 0x28).1 = (c.transmit Config.b0).flags Config.b0 0x28 := rfl
          rw [h2]
          refine ⟨rfl, ?_⟩
          rw [← e, h1]
          have key := simChip_flags (c.transmit Config.b0).pr (!(c.transmit Config.b0).fifo.isEmpty)
            (c.transmit Config.b0).ps
          cases f
          · exact key.1
          · exact key.2.1
          · exact key.2.2
        · cases h
      · cases hx
    | w a v => cases hx
    | bw a data => cases hx
  | receive frame => cases hx
  | own => cases hx
  | reset => cases hx

/-- Out of Transmit no transmission goes on. -/
theorem Chip.transmit_of_ne (c : Chip) (h : c.cell Config.b0.addrMode ≠ Config.b0.valTransmit) :
    c.transmit Config.b0 = c := by
  unfold Chip.transmit
  rw [if_neg (fun hh => h hh.1)]

theorem Chip.write_miss (c : Chip) (a : Addr) (v : Byte) : (c.write Config.b0 a v).miss = c.miss := by
  unfold Chip.write
  repeat' split
  all_goals rfl

/-- A chip set to fail no reads fails none. -/
theorem Chip.after_miss {c c' : Chip} {x : ChipAct} (h : c.after Config.b0 x = some c') (hm : c.miss = 0) :
    c'.miss = 0 := by
  cases x with
  | own => cases h; exact hm
  | reset => cases h; exact hm
  | receive frame => rw [(Chip.after_receive h).2]; exact hm
  | txn t =>
    cases t with
    | w b v => cases h; rw [Chip.write_miss]; exact hm
    | bw b data =>
      cases h
      induction data using List.reverseRecOn with
      | nil => exact hm
      | append_singleton ds d ih =>
        rw [List.foldl_append, List.foldl_cons, List.foldl_nil, Chip.write_miss]
        exact ih
    | r b v =>
      simp only [Chip.after, Chip.answers] at h
      split at h
      · cases h
        unfold Chip.read Chip.transmit
        repeat' split
        all_goals first | exact hm | (simp only; omega)
      · cases h

/-! The assumptions -/

/-- `E-MODE` (R68): SimChip is in the mode last written at once. -/
theorem simChip_eMode {c : Nat → Chip} {h : ChipRun} (hp : Chip.plays Config.b0 c h) : h.eMode Config.b0 := by
  intro k m hk
  refine ⟨k + 1, Nat.lt_succ_self k, fun i hi hl => ?_⟩
  rw [(hp i).1, Chip.view_mode]
  induction i, hi using Nat.le_induction with
  | base =>
    have h1 := Chip.after_cell (hp k).2 (by rw [hk]; simp) Config.b0.addrMode (by decide) (by decide)
    rw [h1, hk]
    simp [ChipAct.given, Txn.given]
  | succ i hi ih =>
    rw [Chip.after_mode (hp i).2 (hl i (by omega) (by omega))]
    exact ih fun l h1 h2 => hl l h1 (by omega)

/-- `E-PLAIN(a)` (R63), for every register that is neither the FIFO nor the flag register, on a chip set to fail no reads
(`miss` = 0). -/
theorem simChip_ePlain {c : Nat → Chip} {h : ChipRun} (hp : Chip.plays Config.b0 c h) (hm : (c 0).miss = 0) (a : Addr)
    (hf : a ≠ 0x00) (hc : a ≠ 0x28) : h.ePlain a := by
  have miss : ∀ n, (c n).miss = 0 := by
    intro n
    induction n with
    | zero => exact hm
    | succ n ih => exact Chip.after_miss (hp n).2 ih
  have cell : ∀ n v, h.lastGiven a n = some v → (c n).cell a = v := by
    intro n
    induction n with
    | zero => intro v hv; cases hv
    | succ n ih =>
      intro v hv
      simp only [ChipRun.lastGiven] at hv
      split at hv
      · cases hv
      · next hr =>
        rw [Chip.after_cell (hp n).2 hr a hf hc]
        cases hg : ((h.act n).given a).getLast? with
        | some w => rw [hg] at hv; cases hv; rfl
        | none => rw [hg] at hv; exact ih v hv
  intro n b v hb hv
  have h2 := (hp n).2
  cases hx : h.act n with
  | own => rw [hx] at hb; cases hb
  | reset => rw [hx] at hb; cases hb
  | receive frame => rw [hx] at hb; cases hb
  | txn t =>
    rw [hx] at hb h2
    cases t with
    | w a' v' => cases hb
    | bw a' data => cases hb
    | r a' v' =>
      simp only [ChipAct.reads] at hb
      split at hb
      · next e =>
        subst e
        cases hb
        simp only [Chip.after, Chip.answers] at h2
        split at h2
        · next e =>
          have h1' : ¬ a' = Config.b0.addrFifo := hf
          have h3' : isFlagAddr Config.b0 a' = false := by
            have : ¬ a' = 40#7 := hc
            simp [isFlagAddr, Config.b0, this]
          rw [← e, ← cell n v hv]
          simp [Chip.read, h1', h3', miss n]
        · cases h2
      · cases hb

/-- `E-CLR` (R64). -/
theorem simChip_eClr {c : Nat → Chip} {h : ChipRun} (hp : Chip.plays Config.b0 c h) : h.eClr Config.b0 := by
  intro n hn
  have h2 : c (n + 1) = { c n with fifo := [], pr := false, ps := false } := by
    have h2 := (hp n).2
    rw [hn] at h2
    exact (Option.some.inj h2).symm
  have hv : ∀ f : Flag, (h.view (n + 1)).flag f = false := by
    intro f
    rw [(hp _).1, h2]
    cases f <;> rfl
  refine ⟨by rw [(hp _).1, h2]; rfl, fun f => ⟨hv f, fun k b hk hs hb => ?_⟩⟩
  have key : ∀ i, n + 1 ≤ i → i ≤ k + 1 → (h.view i).flag f = false := by
    intro i hi
    induction i, hi using Nat.le_induction with
    | base => intro _; exact hv f
    | succ i hi ih =>
      intro hik
      cases hc : (h.view (i + 1)).flag f with
      | false => rfl
      | true => exact absurd ⟨ih (by omega), hc⟩ (hs i (by omega) (by omega))
  rw [(Chip.after_flag_read (hp k).2 hb).2, ← (hp (k + 1)).1]
  exact key (k + 1) (by omega) (by omega)

/-- `E-TXFIFO` (R66). -/
theorem simChip_eTxFifo {c : Nat → Chip} {h : ChipRun} (hp : Chip.plays Config.b0 c h) : h.eTxFifo Config.b0 := by
  have key : ∀ (data : List Byte) (c : Chip),
      (data.foldl (fun c v => c.write Config.b0 Config.b0.addrFifo v) c).fifo = c.fifo ++ data := by
    intro data
    induction data with
    | nil => intro c; simp
    | cons b bs ih => intro c; rw [List.foldl_cons, ih]; simp
  intro n data hn _ hf _
  rw [(hp _).1] at hf ⊢
  have h2 := (hp n).2
  rcases hn with hn | ⟨b, rfl, hn⟩
  · rw [hn] at h2
    rw [← Option.some.inj h2]
    show (data.foldl _ (c n)).fifo = data
    rw [key, show (c n).fifo = [] from hf, List.nil_append]
  · rw [hn] at h2
    rw [← Option.some.inj h2]
    show (c n).fifo ++ [b] = [b]
    rw [show (c n).fifo = [] from hf, List.nil_append]

/-- Over an act that neither ends packet sent nor reads the flag register, a transmission stands still. -/
theorem Chip.after_ps {c c' : Chip} {x : ChipAct} (h : c.after Config.b0 x = some c')
    (hx : x.endsSent Config.b0 = false) (hr : x.reads Config.b0.flagPs.addr = none) : c'.ps = c.ps ∧ c'.cnt = c.cnt := by
  simp only [ChipAct.endsSent, ChipAct.changesMode, Bool.or_eq_false_iff, beq_eq_false_iff_ne, bne_eq_false_iff_eq] at hx
  obtain ⟨⟨h1, h2⟩, h3⟩ := hx
  cases x with
  | own => cases h; exact ⟨rfl, rfl⟩
  | reset => exact absurd rfl h1
  | receive frame => rw [(Chip.after_receive h).2]; exact ⟨rfl, rfl⟩
  | txn t =>
    cases t with
    | w b v =>
      cases h
      refine Chip.write_ps _ _ _ ?_ ?_
      · rintro rfl; simp [ChipAct.given, Txn.given] at h2
      · rintro rfl rfl; simp [ChipAct.given, Txn.given] at h3
    | r b v =>
      simp only [ChipAct.reads] at hr
      split at hr
      · cases hr
      · next hb =>
        simp only [Chip.after, Chip.answers] at h
        split at h
        · cases h
          have hf : isFlagAddr Config.b0 b = false := by
            have : ¬ b = 40#7 := hb
            simp [isFlagAddr, Config.b0, this]
          unfold Chip.read
          rw [hf]
          repeat' split
          all_goals first | exact ⟨rfl, rfl⟩ | contradiction
        · cases h
    | bw b data =>
      cases h
      by_cases hd : data = []
      · subst hd; exact ⟨rfl, rfl⟩
      · have hm : b ≠ Config.b0.addrMode := by
          rintro rfl
          simp [ChipAct.given, Txn.given, hd] at h2
        have hv : ∀ v ∈ data, b = Config.b0.clrAddr → v ≠ Config.b0.clrVal := by
          rintro v hv rfl rfl
          simp [ChipAct.given, Txn.given, hv] at h3
        clear hd h1 h2 h3 hr
        induction data using List.reverseRecOn with
        | nil => exact ⟨rfl, rfl⟩
        | append_singleton ds d ih =>
          rw [List.foldl_append, List.foldl_cons, List.foldl_nil]
          have := Chip.write_ps (ds.foldl (fun c v => c.write Config.b0 b v) c) b d hm (hv d (by simp))
          rw [this.1, this.2]
          exact ih fun v hv' => hv v (by simp [hv'])

/-- In Transmit with packet sent set, it stays set and reads set until it is ended. -/
theorem simChip_stays_sent {c : Nat → Chip} {h : ChipRun} (hp : Chip.plays Config.b0 c h) {i j : Nat} (hij : i ≤ j)
    (hs : (c i).ps = true) (hl : ∀ l, i ≤ l → l < j → (h.act l).endsSent Config.b0 = false) : (c j).ps = true := by
  induction j, hij using Nat.le_induction with
  | base => exact hs
  | succ j hij ih =>
    have hj := ih fun l h1 h2 => hl l h1 (by omega)
    cases hr : (h.act j).reads Config.b0.flagPs.addr with
    | none => rw [(Chip.after_ps (hp j).2 (hl j hij (by omega)) hr).1]; exact hj
    | some b =>
      rw [(Chip.after_flag_read (f := .ps) (hp j).2 hr).1]
      unfold Chip.transmit
      rw [if_neg (by simp [hj])]
      exact hj

/-- In Transmit, a transmission stands still until the next read of the flag register. -/
theorem simChip_next_read {c : Nat → Chip} {h : ChipRun} (hp : Chip.plays Config.b0 c h) (i : Nat)
    (hm : (c i).cell Config.b0.addrMode = Config.b0.valTransmit) (hps : (c i).ps = false) :
    (∀ (j : Nat) (b : Byte), i ≤ j → (∀ l, i ≤ l → l < j → (h.act l).endsSent Config.b0 = false) →
      (h.act j).reads Config.b0.flagPs.addr ≠ some b) ∨
    ∃ (l : Nat) (b : Byte), i ≤ l ∧ (h.act l).reads Config.b0.flagPs.addr = some b ∧
      (c l).cell Config.b0.addrMode = Config.b0.valTransmit ∧ (c l).ps = false ∧ (c l).cnt = (c i).cnt := by
  by_cases hex : ∃ l, i ≤ l ∧ ((h.act l).reads Config.b0.flagPs.addr).isSome ∧
    ∀ l', i ≤ l' → l' < l → (h.act l').endsSent Config.b0 = false
  case neg => exact .inl fun j b hj hl hb => hex ⟨j, hj, by rw [hb]; rfl, hl⟩
  obtain ⟨hl1, hl2, hl3⟩ := Nat.find_spec hex
  have hmin := fun m => Nat.find_min hex (m := m)
  generalize Nat.find hex = l at hl1 hl2 hl3 hmin
  have stand : ∀ k, i ≤ k → k ≤ l →
      (c k).cell Config.b0.addrMode = Config.b0.valTransmit ∧ (c k).ps = false ∧ (c k).cnt = (c i).cnt := by
    intro k hk
    induction k, hk using Nat.le_induction with
    | base => intro _; exact ⟨hm, hps, rfl⟩
    | succ k hk ihk =>
      intro hkl
      obtain ⟨g1, g2, g3⟩ := ihk (by omega)
      have he := hl3 k hk (by omega)
      have hr : (h.act k).reads Config.b0.flagPs.addr = none := by
        cases hr : (h.act k).reads Config.b0.flagPs.addr with
        | none => rfl
        | some b => exact absurd ⟨hk, by rw [hr]; rfl, fun l' h1 h2 => hl3 l' h1 (by omega)⟩ (hmin k (by omega))
      have hmode : (h.act k).changesMode Config.b0 = false := by
        simp only [ChipAct.endsSent, Bool.or_eq_false_iff] at he
        exact he.1
      have hkeep := Chip.after_ps (hp k).2 he hr
      exact ⟨by rw [Chip.after_mode (hp k).2 hmode]; exact g1, by rw [hkeep.1]; exact g2, by rw [hkeep.2]; exact g3⟩
  obtain ⟨b, hb⟩ := Option.isSome_iff_exists.1 hl2
  exact .inr ⟨l, b, hl1, hb, stand l hl1 (Nat.le_refl l)⟩

/-- In Transmit with `n` reads still to come, some moment is reached after which packet sent reads set until it is ended. -/
theorem simChip_sends {c : Nat → Chip} {h : ChipRun} (hp : Chip.plays Config.b0 c h) (n i : Nat)
    (hm : (c i).cell Config.b0.addrMode = Config.b0.valTransmit) (hps : (c i).ps = false) (hn : (c i).cnt = n) :
    ∃ m, i ≤ m ∧ ∀ (j : Nat) (b : Byte), m ≤ j → (∀ l, i ≤ l → l < j → (h.act l).endsSent Config.b0 = false) →
      (h.act j).reads Config.b0.flagPs.addr = some b → flagSet Config.b0 .ps b = true := by
  induction n generalizing i with
  | zero =>
    rcases simChip_next_read hp i hm hps with hno | ⟨l, b, hl1, hb, g1, g2, g3⟩
    · exact ⟨i, Nat.le_refl i, fun j b hj hl hb => absurd hb (hno j b hj hl)⟩
    have hps' : (c (l + 1)).ps = true := by
      rw [(Chip.after_flag_read (f := .ps) (hp l).2 hb).1]
      unfold Chip.transmit
      rw [if_pos ⟨g1, g2⟩, if_pos (by omega)]
    refine ⟨l, hl1, fun j b' hj hl hb' => ?_⟩
    rw [(Chip.after_flag_read (f := .ps) (hp j).2 hb').2]
    show (c (j + 1)).ps = true
    rcases Nat.eq_or_lt_of_le hj with rfl | hj'
    · exact hps'
    · rw [(Chip.after_flag_read (f := .ps) (hp j).2 hb').1]
      have hj1 := simChip_stays_sent hp hj' hps' fun l' h1 h2 => hl l' (by omega) h2
      unfold Chip.transmit
      rw [if_neg (by simp [hj1])]
      exact hj1
  | succ n ih =>
    rcases simChip_next_read hp i hm hps with hno | ⟨l, b, hl1, hb, g1, g2, g3⟩
    · exact ⟨i, Nat.le_refl i, fun j b hj hl hb => absurd hb (hno j b hj hl)⟩
    have hc' : c (l + 1) = { c l with cnt := (c l).cnt - 1 } := by
      rw [(Chip.after_flag_read (f := .ps) (hp l).2 hb).1]
      unfold Chip.transmit
      rw [if_pos ⟨g1, g2⟩, if_neg (by omega)]
    obtain ⟨m, hm1, hm2⟩ := ih (l + 1) (by rw [hc']; exact g1) (by rw [hc']; exact g2) (by rw [hc']; simp only; omega)
    exact ⟨m, by omega, fun j b' hj hl hb' => hm2 j b' hj (fun l' h1 h2 => hl l' (by omega) h2) hb'⟩

/-- `E-SENT` (R67). -/
theorem simChip_eSent {c : Nat → Chip} {h : ChipRun} (hp : Chip.plays Config.b0 c h) : h.eSent Config.b0 := by
  intro k len hk _ _ _ _
  have h2 := (hp k).2
  rw [hk] at h2
  have h3 := Option.some.inj h2
  obtain ⟨m, hm1, hm2⟩ := simChip_sends hp _ (k + 1) (by rw [← h3]; exact Chip.write_cell _ _ _ _ (by decide) (by decide))
    (by rw [← h3]; rfl) rfl
  exact ⟨m, by omega, fun j b hj hl hb => hm2 j b hj (fun l h1 h2 => hl l (by omega) h2) hb⟩

/-- A write elsewhere than to the FIFO that leaves payload ready set leaves the FIFO alone. -/
theorem Chip.write_pr (c : Chip) (b : Addr) (v : Byte) (hb : b ≠ Config.b0.addrFifo)
    (h : (c.write Config.b0 b v).pr = true) : c.pr = true ∧ (c.write Config.b0 b v).fifo = c.fifo := by
  unfold Chip.write at *
  rw [if_neg hb] at *
  split at h
  · cases h
  · next hc =>
    rw [if_neg hc]
    split at h <;> rename_i hm
    · rw [if_pos hm]; exact ⟨h, rfl⟩
    · rw [if_neg hm]; exact ⟨h, rfl⟩

/-- Only the receipt of a frame sets payload ready. -/
theorem Chip.pr_stays_clear {c c' : Chip} {x : ChipAct} (h : c.after Config.b0 x = some c')
    (hx : ∀ frame, x ≠ .receive frame) (hpr : c.pr = false) : c'.pr ≠ true := by
  have hw : ∀ (c : Chip) b v, c.pr = false → (c.write Config.b0 b v).pr = false := by
    intro c b v hc
    unfold Chip.write
    repeat' split
    all_goals first | exact hc | rfl
  suffices c'.pr = false by rw [this]; decide
  cases x with
  | own => cases h; exact hpr
  | reset => cases h; rfl
  | receive frame => exact absurd rfl (hx frame)
  | txn t =>
    cases t with
    | w b v => cases h; exact hw _ _ _ hpr
    | bw b data =>
      cases h
      clear hx
      induction data using List.reverseRecOn with
      | nil => exact hpr
      | append_singleton ds d ih =>
        rw [List.foldl_append]
        exact hw _ _ _ ih
    | r b v =>
      simp only [Chip.after, Chip.answers] at h
      split at h
      · cases h
        unfold Chip.read Chip.transmit
        repeat' split
        all_goals first | exact hpr | rfl
      · cases h

/-- An act of the chip's own, or of a master that neither fills the FIFO nor selects Transmit while payload ready is set,
leaves payload ready set only on the frame that was there, a read of the FIFO taking its oldest byte. -/
theorem Chip.after_pr {c c' : Chip} {x : ChipAct} (h : c.after Config.b0 x = some c') (hx : ∀ frame, x ≠ .receive frame)
    (hf : x.given Config.b0.addrFifo = []) (ht : c.cell Config.b0.addrMode ≠ Config.b0.valTransmit)
    (hpr : c'.pr = true) :
    c.pr = true ∧ c'.fifo = c.fifo.drop (if (x.reads Config.b0.addrFifo).isSome then 1 else 0) ∧
      (c.fifo ≠ [] → c'.fifo ≠ []) := by
  cases x with
  | own => cases h; exact ⟨hpr, rfl, id⟩
  | reset => cases h; cases hpr
  | receive frame => exact absurd rfl (hx frame)
  | txn t =>
    cases t with
    | w b v =>
      cases h
      have hb : b ≠ Config.b0.addrFifo := by rintro rfl; simp [ChipAct.given, Txn.given] at hf
      have h1 := Chip.write_pr c b v hb hpr
      exact ⟨h1.1, h1.2, by rw [h1.2]; exact id⟩
    | bw b data =>
      cases h
      by_cases hd : data = []
      · subst hd; exact ⟨hpr, rfl, id⟩
      · have hb : b ≠ Config.b0.addrFifo := by rintro rfl; simp [ChipAct.given, Txn.given, hd] at hf
        clear hd hf hx
        induction data using List.reverseRecOn with
        | nil => exact ⟨hpr, rfl, id⟩
        | append_singleton ds d ih =>
          rw [List.foldl_append, List.foldl_cons, List.foldl_nil] at *
          have h1 := Chip.write_pr _ b d hb hpr
          rw [h1.2]
          exact ih h1.1
    | r b v =>
      simp only [Chip.after, Chip.answers] at h
      split at h
      · cases h
        by_cases hb : b = Config.b0.addrFifo
        · subst hb
          simp only [Chip.read, if_true] at hpr ⊢
          split at hpr
          · cases hpr
          · next hne => exact ⟨hpr, by simp [ChipAct.reads], fun _ => by simpa using hne⟩
        · have hr : (ChipAct.txn (.r b v)).reads Config.b0.addrFifo = none := by simp [ChipAct.reads, hb]
          rw [hr]
          simp only [Chip.read, if_neg hb, Chip.transmit_of_ne c ht] at hpr ⊢
          split at hpr
          · next hfl => rw [if_pos hfl]; exact ⟨hpr, rfl, id⟩
          · next hfl =>
            rw [if_neg hfl]
            split at hpr
            · next hs => rw [if_pos hs]; exact ⟨hpr, rfl, id⟩
            · next hs => rw [if_neg hs]; exact ⟨hpr, rfl, id⟩
      · cases h

/-- What SimChip's payload ready says of the FIFO, where every frame has the configured length and the master, while payload
ready is set, neither fills the FIFO nor selects Transmit. -/
theorem simChip_frame {c : Nat → Chip} {h : ChipRun} (hp : Chip.plays Config.b0 c h) (h0 : (c 0).pr = false)
    (hlen : ∀ m frame, h.act m = .receive frame →
      ∃ len, h.lastGiven Config.b0.addrPlen m = some len ∧ frame.length = len.toNat)
    (hclean : ∀ n, (c n).pr = true →
      (h.act n).given Config.b0.addrFifo = [] ∧ Config.b0.valTransmit ∉ (h.act n).given Config.b0.addrMode)
    (n : Nat) (hpr : (c n).pr = true) :
    (c n).cell Config.b0.addrMode ≠ Config.b0.valTransmit ∧
    ∃ (m k : Nat) (frame : List Byte) (len : Byte), n = m + 1 + k ∧ h.received m n frame ∧
      h.lastGiven Config.b0.addrPlen m = some len ∧ frame.length = len.toNat ∧
      (c n).fifo = frame.drop (h.readCount Config.b0.addrFifo (m + 1) k) ∧ (frame ≠ [] → (c n).fifo ≠ []) := by
  induction n with
  | zero => rw [h0] at hpr; cases hpr
  | succ n ih =>
    have h2 := (hp n).2
    by_cases hrec : ∃ frame, h.act n = .receive frame
    · obtain ⟨frame, hx⟩ := hrec
      rw [hx] at h2
      obtain ⟨hmode, h3⟩ := Chip.after_receive h2
      obtain ⟨len, hl1, hl2⟩ := hlen n frame hx
      refine ⟨?_, n, 0, frame, len, rfl, ⟨Nat.lt_succ_self n, hx, fun l h1 h2 => by omega⟩, hl1, hl2, ?_, ?_⟩
      · rw [h3]
        show (c n).cell Config.b0.addrMode ≠ _
        rw [hmode]
        decide
      · rw [h3]; rfl
      · rw [h3]; exact id
    · have hx : ∀ frame, h.act n ≠ .receive frame := fun frame hf => hrec ⟨frame, hf⟩
      have hpr0 : (c n).pr = true := by
        by_contra hprn
        exact Chip.pr_stays_clear h2 hx (by simpa using hprn) hpr
      obtain ⟨ht, m, k, frame, len, rfl, ⟨hm1, hm2, hm3⟩, hl1, hl2, hl3, hl4⟩ := ih hpr0
      obtain ⟨-, hfifo, hne⟩ := Chip.after_pr h2 hx (hclean _ hpr0).1 ht hpr
      have hnr : h.act (m + 1 + k) ≠ .reset := by
        intro hr
        rw [hr] at h2
        rw [← Option.some.inj h2] at hpr
        cases hpr
      refine ⟨?_, m, k + 1, frame, len, rfl, ⟨by omega, hm2, fun l h1 h2 => ?_⟩, hl1, hl2, ?_, fun hf => hne (hl4 hf)⟩
      · rw [Chip.after_cell h2 hnr _ (by decide) (by decide)]
        cases hg : ((h.act (m + 1 + k)).given Config.b0.addrMode).getLast? with
        | none => exact ht
        | some v =>
          rintro rfl
          exact (hclean _ hpr0).2 (List.mem_of_getLast? hg)
      · rcases Nat.lt_succ_iff_lt_or_eq.1 h2 with h2 | rfl
        · exact hm3 l h1 h2
        · exact hx
      · rw [hfifo, hl3, List.drop_drop]
        rfl

/-- `E-RXFIFO` (R65), where every frame has the configured length and the master, while payload ready is set, neither fills
the FIFO nor selects Transmit, as its commands never do: TX clears first (R182). -/
theorem simChip_eRxFifo {c : Nat → Chip} {h : ChipRun} (hp : Chip.plays Config.b0 c h) (h0 : (c 0).pr = false)
    (hlen : ∀ m frame, h.act m = .receive frame →
      ∃ len, h.lastGiven Config.b0.addrPlen m = some len ∧ frame.length = len.toNat)
    (hclean : ∀ n, (c n).pr = true →
      (h.act n).given Config.b0.addrFifo = [] ∧ Config.b0.valTransmit ∉ (h.act n).given Config.b0.addrMode) :
    h.eRxFifo Config.b0 := by
  intro n b hmode hone
  rw [(hp n).1, Chip.view_mode] at hmode
  have hnt : (c n).cell Config.b0.addrMode ≠ Config.b0.valTransmit := by rw [hmode]; decide
  refine ⟨fun hb hset => ?_, fun hb => ?_, fun x xs hb hx => ?_⟩
  · obtain ⟨h1, h2⟩ := Chip.after_flag_read (f := .pr) (hp n).2 hb
    rw [h2, h1, Chip.transmit_of_ne _ hnt] at hset
    obtain ⟨-, m, k, frame, len, rfl, hm, hl1, hl2, hl3, hl4⟩ := simChip_frame hp h0 hlen hclean n hset
    have hf : frame ≠ [] := by
      obtain ⟨⟨len', hl1', hpos, -⟩, -⟩ := hone.2 m frame hm
      rw [hl1] at hl1'
      cases hl1'
      rintro rfl
      simp at hl2
      omega
    have hv : (h.view (m + 1 + k)).fifo = (c (m + 1 + k)).fifo := by rw [(hp _).1]; rfl
    exact ⟨m, frame, len, hm, hl1, hl2, by rw [hv, hl3, Nat.add_sub_cancel_left], by rw [hv]; exact hl4 hf⟩
  · obtain ⟨h1, h2⟩ := Chip.after_flag_read (f := .fne) (hp n).2 hb
    rw [h2, h1, Chip.transmit_of_ne _ hnt, (hp n).1]
    show (!(c n).fifo.isEmpty) = true ↔ (c n).fifo ≠ []
    simp
  · rw [(hp n).1] at hx
    have hx' : (c n).fifo = x :: xs := hx
    have h2 := (hp n).2
    cases hact : h.act n with
    | own => rw [hact] at hb; cases hb
    | reset => rw [hact] at hb; cases hb
    | receive frame => rw [hact] at hb; cases hb
    | txn t =>
      rw [hact] at hb h2
      cases t with
      | w a v => cases hb
      | bw a data => cases hb
      | r a v =>
        simp only [ChipAct.reads] at hb
        split at hb
        · next e =>
          subst e
          cases hb
          simp only [Chip.after, Chip.answers] at h2
          split at h2
          · next e =>
            have h3 := Option.some.inj h2
            rw [(hp (n + 1)).1, ← h3, ← e]
            simp [Chip.read, Chip.view, hx']
          · cases h2
        · cases hb

end Sys2Proof.Machine
end

