-- ==== Sys2Proof/Laws/Step.lean ====
section
/-! SUPPORT. What a step is when the master runs alone, and what each meaning answers on a granted bus. -/

namespace Sys2Proof.Machine

theorem State.alone_iff (s : State) : s.alone = true ↔ s.host = [] ∧ s.arbiter = [] ∧ s.arbiterEnd = .granted := by
  simp [State.alone, State.fair, List.isEmpty_iff, and_assoc]

theorem State.busHeld_of_alone {s : State} (h : s.alone = true) : s.busHeld = false := by
  simp [State.busHeld, s.alone_iff.1 h]

/-- A state that keeps the inputs of one that is alone is alone. -/
theorem State.alone_congr {s t : State} (h : s.alone = true) (hh : t.host = s.host) (ha : t.arbiter = s.arbiter.tail)
    (he : t.arbiterEnd = s.arbiterEnd) : t.alone = true := by
  rw [State.alone_iff] at *
  simp [hh, ha, he, h]

/-- Alone and Idle, the machine rests. -/
theorem step_alone_idle {s : State} (h : s.alone = true) (hs : s.seq = .idle) : step s = .next s := by
  simp [step, hostStep, (s.alone_iff.1 h).1, masterStep, hs]

/-- Alone and busy, a step is one micro-operation of the label and what follows it. -/
theorem step_alone {s : State} (h : s.alone = true) (hs : s.seq ≠ .idle) {i : Instr} (hi : microOp s.seq s = .ok i) :
    step s =
      match exec i s with
      | .next t => advance s.seq t
      | .fault f => .fault f
      | .refused r => .refused r := by
  cases he : exec i s <;>
    simp [step, hostStep, (s.alone_iff.1 h).1, masterStep, hs, seqStep, State.busHeld_of_alone h, hi, he]

/-- The label's micro-operation is a write. -/
theorem step_alone_wreg {s : State} (h : s.alone = true) (hs : s.seq ≠ .idle) {a : Addr} {v : Byte}
    (hi : microOp s.seq s = .ok (.wreg a v)) : step s = advance s.seq (s.wrote a v) := by
  rw [step_alone h hs hi]
  simp [exec, execWreg, withBus_granted _ (State.busHeld_of_alone h), State.writeFrame_eq]

/-- The label's micro-operation is a read. -/
theorem step_alone_rreg {s : State} (h : s.alone = true) (hs : s.seq ≠ .idle) {a : Addr}
    (hi : microOp s.seq s = .ok (.rreg a)) : step s = advance s.seq (s.didRead a s.cfg.dummy) := by
  rw [step_alone h hs hi]
  simp [exec, execRreg, withBus_granted _ (State.busHeld_of_alone h), State.readFrame_eq]

/-- The label's micro-operation is a flag read. -/
theorem step_alone_rflag {s : State} (h : s.alone = true) (hs : s.seq ≠ .idle) {f : Flag}
    (hi : microOp s.seq s = .ok (.rflag f)) : step s = advance s.seq (s.didRead (s.cfg.flag f).addr s.cfg.dummy) := by
  rw [step_alone h hs hi]
  simp [exec, execRflag, withBus_granted _ (State.busHeld_of_alone h), State.readFrame_eq]

/-- The label's micro-operation is a mode write. -/
theorem step_alone_setmode {s : State} (h : s.alone = true) (hs : s.seq ≠ .idle) {m : Mode}
    (hi : microOp s.seq s = .ok (.setmode m)) :
    step s = advance s.seq { s.wrote s.cfg.addrMode (s.cfg.modeVal m) with gMode := .known m } := by
  rw [step_alone h hs hi]
  simp [exec, execSetmode, withBus_granted _ (State.busHeld_of_alone h), State.selectMode, State.writeFrame_eq]

/-- The label's micro-operation is the clearing write. -/
theorem step_alone_clrfifo {s : State} (h : s.alone = true) (hs : s.seq ≠ .idle)
    (hi : microOp s.seq s = .ok .clrfifo) : step s = advance s.seq (s.wrote s.cfg.clrAddr s.cfg.clrVal) := by
  rw [step_alone h hs hi]
  simp [exec, execClrfifo, withBus_granted _ (State.busHeld_of_alone h), State.writeFrame_eq]

/-- The label's micro-operation is the burst. -/
theorem step_alone_fifowr {s : State} (h : s.alone = true) (hs : s.seq ≠ .idle) {n : Byte}
    (hi : microOp s.seq s = .ok (.fifowr n)) : step s = advance s.seq (s.sentBuffer n.toNat) := by
  rw [step_alone h hs hi]
  simp [exec, execFifowr, withBus_granted _ (State.busHeld_of_alone h), State.fifoFrame_eq]

/-- A placed word is run on a granted bus (log 16). -/
theorem State.busHeld_placeWord (w : PortWord) (s : State) : (s.placeWord w).busHeld = false := by
  simp only [State.placeWord, State.busHeld]
  induction s.arbiter with
  | nil => cases s.arbiterEnd <;> rfl
  | cons g gs ih => cases g <;> simp_all [firstGrant, List.dropWhile]

/-! Runs -/

theorem run_zero (s : State) : run 0 s = .next s := rfl

theorem run_succ (n : Nat) (s : State) :
    run (n + 1) s =
      match step s with
      | .next t => run n t
      | .fault f => .fault f
      | .refused r => .refused r := rfl

theorem run_succ_of_next {n : Nat} {s t : State} (h : step s = .next t) : run (n + 1) s = run n t := by
  rw [run_succ, h]

/-- Alone and Idle, the machine rests for ever. -/
theorem run_alone_idle (n : Nat) {s : State} (h : s.alone = true) (hs : s.seq = .idle) : run n s = .next s := by
  induction n with
  | zero => rfl
  | succ n ih => rw [run_succ_of_next (step_alone_idle h hs), ih]

theorem run_add {m : Nat} {s t : State} (n : Nat) (h : run m s = .next t) : run (m + n) s = run n t := by
  induction m generalizing s with
  | zero => cases h; simp
  | succ m ih =>
    rw [run_succ] at h
    rw [Nat.add_right_comm, run_succ]
    cases hs : step s with
    | next u => rw [hs] at h; exact ih h
    | fault f => rw [hs] at h; cases h
    | refused r => rw [hs] at h; cases h

end Sys2Proof.Machine
end

