-- ==== Sys2Proof/Laws/Trace.lean ====
section
/-! SUPPORT. The bracket discipline of a trace (R115) and the transactions read back from it (R97), piece by piece. -/

namespace Sys2Proof.Machine

theorem busRun_cons (p : BusPhase) (x : Event) (xs : List Event) :
    BusPhase.run p (x :: xs) = (p.after x).bind fun q => BusPhase.run q xs := by
  show (match p.after x with | some q => BusPhase.run q xs | none => none) = _
  cases p.after x <;> rfl

theorem busRun_append (p : BusPhase) (xs ys : List Event) :
    BusPhase.run p (xs ++ ys) = (BusPhase.run p xs).bind fun q => BusPhase.run q ys := by
  induction xs generalizing p with
  | nil => rfl
  | cons x xs ih =>
    rw [List.cons_append, busRun_cons, busRun_cons]
    cases p.after x with
    | none => rfl
    | some q => exact ih q

theorem traceOk_iff (es : List Event) : traceOk es = true ↔ BusPhase.run .free es = some .free := by simp [traceOk]

theorem traceOk_append {xs ys : List Event} (hx : traceOk xs = true) (hy : traceOk ys = true) :
    traceOk (xs ++ ys) = true := by
  rw [traceOk_iff] at *
  rw [busRun_append, hx]
  exact hy

/-- Inside a bracket stand exchanges and buffer reads. -/
theorem busRun_selected {xs : List Event} (h : ∀ e ∈ xs, BusPhase.after .selected e = some .selected) :
    BusPhase.run .selected xs = some .selected := by
  induction xs with
  | nil => rfl
  | cons x xs ih =>
    rw [busRun_cons, h x (by simp)]
    exact ih fun e he => h e (by simp [he])

theorem traceOk_bracket {xs : List Event} (h : ∀ e ∈ xs, BusPhase.after .selected e = some .selected) :
    traceOk ([.acq, .csLow] ++ xs ++ [.csHigh, .rel]) = true := by
  rw [traceOk_iff, busRun_append, busRun_append]
  show (BusPhase.run .selected xs).bind _ = _
  rw [busRun_selected h]
  rfl

theorem traceOk_writeEvents (a : Addr) (v : Byte) (s : State) : traceOk (writeEvents a v s) = true := rfl

theorem traceOk_readEvents (a : Addr) (d : Byte) (s : State) : traceOk (readEvents a d s) = true := rfl

theorem fifoEvents_eq (n : Nat) (s : State) :
    fifoEvents n s = [.acq, .csLow] ++ ([.x (addrByte true s.cfg.addrFifo) (s.answerAt 0)] ++
      (List.range n).flatMap (fun j => [.bufRd j (s.bufByte j), .x (s.bufByte j) (s.answerAt (j + 1))])) ++
      [.csHigh, .rel] := by
  simp [fifoEvents]

theorem traceOk_fifoEvents (n : Nat) (s : State) : traceOk (fifoEvents n s) = true := by
  rw [fifoEvents_eq]
  refine traceOk_bracket fun e he => ?_
  simp only [List.cons_append, List.nil_append, List.mem_cons, List.mem_flatMap, List.not_mem_nil, or_false] at he
  rcases he with rfl | ⟨j, _, rfl | rfl⟩ <;> rfl

theorem burstEvents_eq (a : Addr) (data : List Byte) (s : State) :
    burstEvents a data s = [.acq, .csLow] ++ ([.x (addrByte true a) (s.answerAt 0)] ++
      data.mapIdx (fun j b => .x b (s.answerAt (j + 1)))) ++ [.csHigh, .rel] := by
  simp [burstEvents]

theorem traceOk_burstEvents (a : Addr) (data : List Byte) (s : State) : traceOk (burstEvents a data s) = true := by
  rw [burstEvents_eq]
  refine traceOk_bracket fun e he => ?_
  simp only [List.cons_append, List.nil_append, List.mem_cons, List.mem_mapIdx] at he
  rcases he with rfl | ⟨j, _, rfl⟩ <;> rfl

/-- The bytes gathered so far belong to an open bracket only. -/
def BusPhase.gathers : BusPhase → Option (List (Byte × Byte)) → Prop
  | .selected, cur => ∃ xs, cur = some xs
  | _, cur => cur = none

/-- A trace that is well formed up to a point is read back in two parts. -/
theorem brackets_append_of {p : BusPhase} {cur : Option (List (Byte × Byte))} {xs : List Event} (ys : List Event)
    (hc : p.gathers cur) (h : BusPhase.run p xs = some .free) :
    brackets (xs ++ ys) cur = brackets xs cur ++ brackets ys none := by
  induction xs generalizing p cur with
  | nil => cases h; cases hc; rfl
  | cons x xs ih =>
    rw [busRun_cons] at h
    have key : ∀ q : BusPhase, p.after x = some q → q.gathers (gather cur x) := by
      intro q hq
      cases x <;> cases p <;> cases hq <;>
        first
        | exact hc
        | rfl
        | exact ⟨_, rfl⟩
        | (obtain ⟨zs, rfl⟩ := hc; exact ⟨_, rfl⟩)
    cases hq : p.after x with
    | none => rw [hq] at h; cases h
    | some q =>
      rw [hq] at h
      rw [List.cons_append, brackets, brackets, ih (key q hq) h, List.append_assoc]

theorem bufWrites_append (xs ys : List Event) : bufWrites (xs ++ ys) = bufWrites xs ++ bufWrites ys := by
  simp [bufWrites]

theorem transactions_append {xs : List Event} (ys : List Event) (h : traceOk xs = true) :
    transactions (xs ++ ys) = transactions xs ++ transactions ys := by
  unfold transactions
  rw [brackets_append_of ys (p := .free) rfl ((traceOk_iff xs).1 h), List.map_append]

theorem writeMarker_addrByte (w : Bool) (a : Addr) : writeMarker (addrByte w a) = w := by
  revert w a
  decide

theorem addrField_addrByte (w : Bool) (a : Addr) : addrField (addrByte w a) = a := by
  revert w a
  decide

/-- `Done` is no transaction. -/
theorem transactions_append_done (xs : List Event) (result : Option (Bool × Byte)) :
    transactions (xs ++ [.done result]) = transactions xs := by
  have key : ∀ cur, brackets (xs ++ [.done result]) cur = brackets xs cur := by
    induction xs with
    | nil => intro cur; rfl
    | cons e es ih => intro cur; rw [List.cons_append, brackets, brackets, ih]
  unfold transactions
  rw [key]

theorem transactions_writeEvents (a : Addr) (v : Byte) (s : State) :
    transactions (writeEvents a v s) = [some (.w a v)] := by
  show [readBracket [(addrByte true a, s.answerAt 0), (v, s.answerAt 1)]] = _
  simp [readBracket, decodeBracket, writeMarker_addrByte, addrField_addrByte]

theorem transactions_readEvents (a : Addr) (d : Byte) (s : State) :
    transactions (readEvents a d s) = [some (.r a (s.answerAt 1))] := by
  show [readBracket [(addrByte false a, s.answerAt 0), (d, s.answerAt 1)]] = _
  simp [readBracket, decodeBracket, writeMarker_addrByte, addrField_addrByte]

/-- The (sent, returned) pair of an exchange. -/
def exchanged : Event → Option (Byte × Byte)
  | .x t r => some (t, r)
  | _ => none

theorem bufWrites_readEvents (a : Addr) (d : Byte) (s : State) : bufWrites (readEvents a d s) = [] := rfl

/-- A bracket of any number of exchanges is one bracket of their bytes. -/
theorem brackets_bracket {xs : List Event} (h : ∀ e ∈ xs, BusPhase.after .selected e = some .selected)
    (cur : List (Byte × Byte)) :
    brackets (xs ++ [.csHigh, .rel]) (some cur) = [cur ++ xs.filterMap exchanged] := by
  induction xs generalizing cur with
  | nil => rw [List.filterMap_nil, List.append_nil]; rfl
  | cons x xs ih =>
    have hx := h x (by simp)
    have ih' := fun cur => ih (fun e he => h e (by simp [he])) cur
    rw [List.cons_append, brackets]
    cases x with
    | x t r =>
      show [] ++ brackets (xs ++ [.csHigh, .rel]) (some (cur ++ [(t, r)])) = _
      rw [ih', List.nil_append, List.append_assoc]
      rfl
    | bufRd i b => exact ih' cur
    | _ => cases hx

/-- A write bracket of any length is a burst, or a W frame where it holds one data byte (R97). -/
theorem decodeBracket_burst (a : Addr) (data : List Byte) (h : data.length ≤ 255) :
    decodeBracket (addrByte true a :: data) = .ok (burstFrame a data) := by
  have hb : burstOk data = true := by simpa [burstOk] using h
  unfold decodeBracket
  simp only [writeMarker_addrByte, addrField_addrByte, if_true]
  match data with
  | [] => rfl
  | [b] => rfl
  | b :: c :: ds => simp only [hb, if_true]; rfl

theorem readBracket_burst (a : Addr) (data : List Byte) (xs : List (Byte × Byte)) (h : data.length ≤ 255)
    (hx : xs.map Prod.fst = addrByte true a :: data) : readBracket xs = some (burstTxn a data) := by
  unfold readBracket
  rw [hx, decodeBracket_burst a data h]
  match data with
  | [] => rfl
  | [b] => rfl
  | b :: c :: ds => rfl

theorem transactions_fifoEvents (n : Byte) (s : State) :
    transactions (fifoEvents n.toNat s) =
      [some (burstTxn s.cfg.addrFifo ((List.range n.toNat).map s.bufByte))] := by
  have hn := n.isLt
  rw [fifoEvents_eq]
  have hk : ∀ e ∈ [Event.x (addrByte true s.cfg.addrFifo) (s.answerAt 0)] ++ (List.range n.toNat).flatMap
      (fun j => [Event.bufRd j (s.bufByte j), .x (s.bufByte j) (s.answerAt (j + 1))]),
      BusPhase.after .selected e = some .selected := by
    intro e he
    simp only [List.cons_append, List.nil_append, List.mem_cons, List.mem_flatMap, List.not_mem_nil, or_false] at he
    rcases he with rfl | ⟨j, _, rfl | rfl⟩ <;> rfl
  have hb := brackets_bracket hk []
  unfold transactions
  have e0 : ∀ es : List Event, brackets ([.acq, .csLow] ++ es) none = brackets es (some []) := fun _ => rfl
  rw [List.append_assoc, e0, hb]
  have hmap : ((List.range n.toNat).flatMap
      (fun j => [Event.bufRd j (s.bufByte j), .x (s.bufByte j) (s.answerAt (j + 1))])).filterMap exchanged
      = (List.range n.toNat).map fun j => (s.bufByte j, s.answerAt (j + 1)) := by
    induction List.range n.toNat with
    | nil => rfl
    | cons j js ih =>
      rw [List.flatMap_cons, List.filterMap_append, ih]
      rfl
  rw [List.filterMap_append, hmap]
  have hlen : ((List.range n.toNat).map s.bufByte).length ≤ 255 := by simp; omega
  refine congrArg (· :: []) (readBracket_burst _ _ _ hlen ?_)
  rw [List.nil_append, List.map_append, List.map_map]
  rfl

end Sys2Proof.Machine
end

