-- ==== Sys2Proof/Laws/Micro.lean ====
section
/-! SUPPORT. What the micro-operation of a label leaves, once for all labels, and what keeps the memories canonical. -/

namespace Sys2Proof.Machine

/-- What a micro-operation leaves on a granted bus (R110, R113, R116, R119, R130, R132). -/
def microEffect : Instr → State → State
  | .wreg a v, s => s.wrote a v
  | .rreg a, s => s.didRead a s.cfg.dummy
  | .fifowr n, s => s.sentBuffer n.toNat
  | .setmode m, s => { s.wrote s.cfg.addrMode (s.cfg.modeVal m) with gMode := .known m }
  | .clrfifo, s => s.wrote s.cfg.clrAddr s.cfg.clrVal
  | .rflag f, s => s.didRead (s.cfg.flag f).addr s.cfg.dummy
  | _, s => s

/-- A label's instruction is one of the micro-operations and pseudo-operations of level U (R89). -/
theorem microOp_level {l : Label} {s : State} {i : Instr} (h : microOp l s = .ok i) :
    (∃ a v, i = .wreg a v) ∨ (∃ a, i = .rreg a) ∨ (∃ n, i = .fifowr n) ∨ (∃ m, i = .setmode m) ∨ i = .clrfifo ∨
      (∃ f, i = .rflag f) := by
  cases l <;> simp only [microOp, microI2, microI3v, microRestore, saved] at h <;> (repeat' split at h) <;>
    cases h <;> simp

theorem exec_micro {l : Label} {s : State} {i : Instr} (h : microOp l s = .ok i) (hb : s.busHeld = false) :
    exec i s = .next (microEffect i s) := by
  rcases microOp_level h with ⟨a, v, rfl⟩ | ⟨a, rfl⟩ | ⟨n, rfl⟩ | ⟨m, rfl⟩ | rfl | ⟨f, rfl⟩ <;>
    simp [exec, execWreg, execRreg, execFifowr, execSetmode, execClrfifo, execRflag, State.selectMode, withBus, hb,
      microEffect, State.writeFrame_eq, State.readFrame_eq, State.fifoFrame_eq]

/-- A busy master on a granted bus runs its label's micro-operation and what follows it. -/
theorem seqStep_granted {s : State} (hb : s.busHeld = false) :
    seqStep s =
      match microOp s.seq s with
      | .ok i => advance s.seq (microEffect i s)
      | .error f => .fault f := by
  unfold seqStep
  simp only [hb]
  cases h : microOp s.seq s with
  | error f => rfl
  | ok i => simp [exec_micro h hb]

/-- A busy master on a held bus waits. -/
theorem seqStep_held {s : State} (hb : s.busHeld = true) : seqStep s = .next s.hold := by simp [seqStep, hb]

theorem State.memOk_iff (s : State) :
    s.memOk = true ↔ s.regs.wf = true ∧ s.buffer.wf = true ∧ ∀ c ∈ s.regs, c.1 < 128 := by
  simp [State.memOk, and_assoc]

/-- At most one cell written in each memory. -/
theorem State.memOk_of {s t : State} (h : s.memOk = true)
    (hr : t.regs = s.regs ∨ ∃ (a : Addr) (v : Byte), t.regs = s.regs.write a.toNat v)
    (hb : t.buffer = s.buffer ∨ ∃ i v, t.buffer = s.buffer.write i v) : t.memOk = true := by
  rw [State.memOk_iff] at *
  obtain ⟨h1, h2, h3⟩ := h
  refine ⟨?_, ?_, ?_⟩
  · rcases hr with hr | ⟨a, v, hr⟩ <;> rw [hr]
    · exact h1
    · exact Memory.wf_write _ _ _ h1
  · rcases hb with hb | ⟨a, v, hb⟩ <;> rw [hb]
    · exact h2
    · exact Memory.wf_write _ _ _ h2
  · rcases hr with hr | ⟨a, v, hr⟩ <;> rw [hr]
    · exact h3
    · intro c hc
      rcases Memory.mem_write hc with rfl | hc
      · exact a.isLt
      · exact h3 c hc

theorem burstRegs_cases (a : Addr) (data : List Byte) (m : Memory) :
    burstRegs a data m = m ∨ ∃ v, burstRegs a data m = m.write a.toNat v := by
  unfold burstRegs
  split <;> simp

end Sys2Proof.Machine
end

