-- ==== Sys2Proof/Laws/HostPort.lean ====
section
/-! SUPPORT. What the exchanges of a bracket that is cut short leave (R232, log 15): the frames of two bytes, and T4's
burst. -/

namespace Sys2Proof.Machine

theorem State.exchange_data (u : State) (j : Nat) (b : Byte) :
    u.exchange (some j, b) =
      { u with
        rx := u.rx.drop 1
        drawn := u.drawn + (1 - u.rx.length)
        trace := u.trace ++ [.bufRd j b, .x b u.answer] } := by
  cases h : u.rx <;> simp [State.exchange, State.xfer, State.emit, State.answer, h]

/-- Exchanges of bytes that are not read from the buffer. -/
theorem foldl_exchange_frame (bs : List Byte) (s : State) :
    (bs.map (fun b => ((none : Option Nat), b))).foldl State.exchange s =
      { s with
        rx := s.rx.drop bs.length
        drawn := s.drawn + (bs.length - s.rx.length)
        trace := s.trace ++ bs.mapIdx (fun j b => .x b (s.answerAt j)) } := by
  induction bs generalizing s with
  | nil => simp
  | cons b bs ih =>
    rw [List.map_cons, List.foldl_cons]
    show (bs.map _).foldl State.exchange (s.xfer b) = _
    have h1 : s.drawn + (1 - s.rx.length) + (bs.length - (s.rx.drop 1).length) =
        s.drawn + (bs.length + 1 - s.rx.length) := by simp; omega
    rw [ih]
    simp only [State.xfer_rx_drop, s.xfer_drawn_add b, h1, State.answerAt_xfer]
    simp [List.mapIdx_cons, State.xfer, State.answer, State.answerAt, Nat.add_comm]
    cases s.rx <;> simp

/-- The answer to an exchange made after `n` others. -/
theorem State.answer_of_drop {s u : State} (n : Nat) (hr : u.rx = s.rx.drop n)
    (hd : u.drawn = s.drawn + (n - s.rx.length)) : u.answer = s.answerAt n := by
  unfold State.answer State.answerAt
  rw [hr, hd]
  by_cases hn : n < s.rx.length
  · simp only [List.drop_eq_getElem_cons hn, List.getElem?_eq_getElem hn]
  · simp only [List.drop_eq_nil_of_le (Nat.le_of_not_lt hn), List.getElem?_eq_none (Nat.le_of_not_lt hn)]

/-- Exchanges of the first `n` bytes of the buffer. -/
theorem foldl_exchange_buffer (n : Nat) (s : State) :
    ((List.range n).map (fun j => (some j, s.bufByte j))).foldl State.exchange s =
      { s with
        rx := s.rx.drop n
        drawn := s.drawn + (n - s.rx.length)
        trace := s.trace ++
          (List.range n).flatMap (fun j => [.bufRd j (s.bufByte j), .x (s.bufByte j) (s.answerAt j)]) } := by
  induction n with
  | zero => simp
  | succ n ih =>
    have hd : s.drawn + (n - s.rx.length) + (1 - (s.rx.drop n).length) = s.drawn + (n + 1 - s.rx.length) := by
      simp; omega
    rw [List.range_succ, List.map_append, List.foldl_append, ih]
    simp only [List.map_cons, List.map_nil, List.foldl_cons, List.foldl_nil]
    rw [State.exchange_data, State.answer_of_drop (s := s) n rfl rfl]
    simp only [hd, List.drop_drop, List.flatMap_append, List.flatMap_cons, List.flatMap_nil, List.append_assoc,
      List.append_nil]

/-- Only FIFOWR reads its data from the buffer. -/
theorem State.exchanges_frame {i : Instr} (s : State) (h : ∀ n, i ≠ .fifowr n) :
    s.exchanges i = (i.frameBytes s.cfg []).map (fun b => ((none : Option Nat), b)) := by
  cases i with
  | fifowr n => exact absurd rfl (h n)
  | bw a data =>
    simp only [State.exchanges, Instr.frameBytes, dataIndex, List.map_cons]
    congr 1
    apply List.ext_getElem?
    intro j
    simp
  | _ => rfl

/-- FIFOWR's exchanges, cut after `n` data bytes. -/
theorem State.exchanges_fifowr (len : Byte) (n : Nat) (s : State) :
    (s.exchanges (.fifowr len)).take (n + 1) =
      (none, addrByte true s.cfg.addrFifo) :: (List.range (min n len.toNat)).map (fun j => (some j, s.bufByte j)) := by
  have hl := len.isLt
  simp only [State.exchanges, Instr.frameBytes, List.take_succ_cons]
  congr 1
  apply List.ext_getElem?
  intro j
  simp only [List.getElem?_take, List.getElem?_mapIdx, List.getElem?_map, dataIndex]
  by_cases hj : j < n
  · by_cases h1 : j < len.toNat
    · have h2 : j < 255 := by omega
      have h3 : j < min n len.toNat := by omega
      simp [hj, h1, h2, h3]
    · have h3 : ¬ j < min n len.toNat := by omega
      simp [hj, h1, h3]
  · have h3 : ¬ j < min n len.toNat := by omega
    simp [hj, h3]

/-- T4 is the one label whose micro-operation reads the buffer. -/
theorem microOp_ne_fifowr {l : Label} {s : State} {i : Instr} (h : microOp l s = .ok i) (hl : l ≠ .t4) :
    ∀ n, i ≠ .fifowr n := by
  rintro n rfl
  cases l <;> simp only [microOp, microI2, microI3v, microRestore, saved] at h <;> (repeat' split at h) <;> cases h
  exact hl rfl

/-- Every other micro-operation is a frame of two bytes. -/
theorem microOp_two_bytes {l : Label} {s : State} {i : Instr} (h : microOp l s = .ok i) (hl : l ≠ .t4) :
    (i.frameBytes s.cfg []).length = 2 := by
  rcases microOp_level h with ⟨a, v, rfl⟩ | ⟨a, rfl⟩ | ⟨n, rfl⟩ | ⟨m, rfl⟩ | rfl | ⟨f, rfl⟩
  case inr.inr.inl => exact absurd rfl (microOp_ne_fifowr h hl n)
  all_goals rfl

end Sys2Proof.Machine
end

