-- ==== Sys2Proof/Laws/PerInstr.lean ====
section
/-! SUPPORT. One statement per instruction: the first byte of its encoding says what it is. -/

namespace Sys2Proof.Laws.Marker

/-- Does an instruction's frame carry the write marker (R81 to R83)? None for a host command. -/
def writes : Instr → Option Bool
  | .w _ _ => some true
  | .r _ _ => some false
  | .bw _ _ => some true
  | .wreg _ _ => some true
  | .rreg _ => some false
  | .fifowr _ => some true
  | .setmode _ => some true
  | .clrfifo => some true
  | .rflag _ => some false
  | .init _ _ _ _ => none
  | .poll _ => none
  | .tx _ _ => none
  | .reserved => none

/-- R85, R91: a frame's first byte has the write marker exactly where the frame writes; a command's is a 2-bit code. -/
def Statement (i : Instr) : Prop :=
  ∀ (p : Params) (data : List Byte),
    match encode p data i with
    | .bracket bytes => ∃ b bs, bytes = b :: bs ∧ writes i = some (writeMarker b)
    | .command bytes => ∃ c cs, bytes = c :: cs ∧ c.toNat < 4 ∧ writes i = none

theorem w (a : Addr) (v : Byte) : Statement (.w a v) := fun _ _ =>
  ⟨_, _, rfl, by rw [Machine.writeMarker_addrByte]; rfl⟩

theorem r (a : Addr) (d : Byte) : Statement (.r a d) := fun _ _ =>
  ⟨_, _, rfl, by rw [Machine.writeMarker_addrByte]; rfl⟩

theorem bw (a : Addr) (data : List Byte) : Statement (.bw a data) := fun _ _ =>
  ⟨_, _, rfl, by rw [Machine.writeMarker_addrByte]; rfl⟩

theorem wreg (a : Addr) (v : Byte) : Statement (.wreg a v) := fun _ _ =>
  ⟨_, _, rfl, by rw [Machine.writeMarker_addrByte]; rfl⟩

theorem rreg (a : Addr) : Statement (.rreg a) := fun _ _ =>
  ⟨_, _, rfl, by rw [Machine.writeMarker_addrByte]; rfl⟩

theorem fifowr (n : Byte) : Statement (.fifowr n) := fun _ _ =>
  ⟨_, _, rfl, by rw [Machine.writeMarker_addrByte]; rfl⟩

theorem setmode (m : Mode) : Statement (.setmode m) := fun _ _ =>
  ⟨_, _, rfl, by rw [Machine.writeMarker_addrByte]; rfl⟩

theorem clrfifo : Statement .clrfifo := fun _ _ => ⟨_, _, rfl, by rw [Machine.writeMarker_addrByte]; rfl⟩

theorem rflag (f : Flag) : Statement (.rflag f) := fun _ _ =>
  ⟨_, _, rfl, by rw [Machine.writeMarker_addrByte]; rfl⟩

theorem init (len : Nat) (tol : Byte) (val : List Byte) (rxLen : Byte) : Statement (.init len tol val rxLen) :=
  fun _ _ => ⟨_, _, rfl, by decide, rfl⟩

theorem poll (cap : Byte) : Statement (.poll cap) := fun _ _ => ⟨_, _, rfl, by decide, rfl⟩

theorem tx (len : Byte) (suppress : Bool) : Statement (.tx len suppress) := fun _ _ => ⟨_, _, rfl, by decide, rfl⟩

theorem reserved : Statement .reserved := fun _ _ => ⟨_, _, rfl, by decide, rfl⟩

end Sys2Proof.Laws.Marker
end

