-- ==== Sys2Proof/Machine/Written.lean ====
section
/-! DEFINITION. The written syntax of instructions (30_encoding.md R96): mnemonic, a space, operands with commas. Bytes and
addresses are written as hexadecimal numerals, counts as decimal ones; the names of `P` that R96 also allows are not used.
For reading and logging: no step uses it. -/

namespace Sys2Proof

/-- A hexadecimal digit. -/
def hexDigit (n : Nat) : Char := ("0123456789ABCDEF".toList[n]?).getD '?'

/-- Two digits after `0x`. -/
def hexByte (n : Nat) : String := String.ofList ['0', 'x', hexDigit (n / 16 % 16), hexDigit (n % 16)]

/-- Operands with commas between them. -/
def commaList : List String → String
  | [] => ""
  | [x] => x
  | x :: xs => x ++ ", " ++ commaList xs

/-- A list of bytes in brackets. -/
def byteList (bs : List Byte) : String := "[" ++ commaList (bs.map fun b => hexByte b.toNat) ++ "]"

/-- A mode by name. -/
def Mode.written : Mode → String
  | .standby => "Standby"
  | .transmit => "Transmit"
  | .receive => "Receive"

/-- A flag by name. -/
def Flag.written : Flag → String
  | .pr => "PR"
  | .fne => "FNE"
  | .ps => "PS"

/-- A Bool by name. -/
def boolWritten : Bool → String
  | true => "true"
  | false => "false"

/-- R96. A frame is written in the shorthand of a trace line (R11), the dummy byte of a read in the place of its
operand. -/
def Instr.written : Instr → String
  | .w a v => "W(" ++ commaList [hexByte a.toNat, hexByte v.toNat] ++ ")"
  | .r a d => "R(" ++ commaList [hexByte a.toNat, hexByte d.toNat] ++ ")"
  | .bw a data => "BW(" ++ commaList [hexByte a.toNat, byteList data] ++ ")"
  | .wreg a v => "WREG " ++ commaList [hexByte a.toNat, hexByte v.toNat]
  | .rreg a => "RREG " ++ hexByte a.toNat
  | .fifowr n => "FIFOWR " ++ toString n.toNat
  | .setmode m => "SETMODE " ++ m.written
  | .clrfifo => "CLRFIFO"
  | .rflag f => "RFLAG " ++ f.written
  | .init len tol val rxLen =>
    "INIT " ++ commaList [toString len, toString tol.toNat, byteList val, toString rxLen.toNat]
  | .poll cap => "POLL " ++ toString cap.toNat
  | .tx len suppress => "TX " ++ commaList [toString len.toNat, boolWritten suppress]
  | .reserved => "(reserved)"

end Sys2Proof
end

