-- ==== Sys2Proof/Tests/Slice0.lean ====
section
/-! SUPPORT. Tests. Expected values come from spec/95_test_vectors.md (V and PR numbers) or by hand from the rule named; each
is one step or one definition on a small state. The last part shows, for every obligation with hypotheses, a state and
operands that meet them. -/

namespace Sys2Proof.Tests

open Sys2Proof Sys2Proof.Machine

/-! ## Helpers -/

/-- A state at a label, the chip about to answer these bytes. -/
def at_ (l : Label) (cmd : Cmd) (answers : List Byte) : State := { State.reset with seq := l, cmd := cmd, rx := answers }

/-- INIT's labels with two sync bytes latched. -/
def initAt (l : Label) (answers : List Byte) : State :=
  { at_ l .init answers with syncLen := 2, syncVal := #v[0x2D, 0xD4, 0, 0, 0, 0, 0, 0], rxPlen := 3 }

/-- POLL's labels: `n` bytes drained of a capacity `cap`. -/
def pollAt (l : Label) (n cap : Byte) (answers : List Byte) : State := { at_ l .poll answers with idx := n, cap := cap }

/-- TX's labels with saved latches, as the invariant has them, and two bytes to send. -/
def txAt (l : Label) (m : Mode) (suppress : Bool) (answers : List Byte) : State :=
  { at_ l .tx answers with
    gMode := .known m
    suppress := suppress
    svSync := if suppress then some 0x88 else none
    svPlen := some 0x03
    txLen := 2
    buffer := [(0, 0xAA), (1, 0xBB)] }

def ok (r : Result) : Bool :=
  match r with
  | .next _ => true
  | .fault _ => false
  | .refused _ => false

/-- A component of the next state. -/
def out {α : Type} (f : State → α) (r : Result) : Option α :=
  match r with
  | .next t => some (f t)
  | .fault _ => none
  | .refused _ => none

def fault? (r : Result) : Option Fault :=
  match r with
  | .next _ => none
  | .fault f => some f
  | .refused _ => none

def refusal? (r : Result) : Option Refusal :=
  match r with
  | .next _ => none
  | .fault _ => none
  | .refused r => some r

/-- What a step of a state at a label leaves: the bytes on the bus as transactions, the label after. -/
def seen (r : Result) : Option (List (Option Txn) × Label) := out (fun t => (transactions t.trace, t.seq)) r

/-! ## WellFormed smoke: every check refuses an ill-formed term -/

theorem test_wf_burst_of_256_refused : (Instr.bw 0x00 (List.replicate 256 0)).wf = false := by decide +kernel

theorem test_wf_burst_of_255_allowed : (Instr.bw 0x00 (List.replicate 255 0)).wf = true := by decide +kernel

theorem test_wf_init_length_0_refused : (Instr.init 0 0 [] 3).wf = false := by decide

theorem test_wf_init_length_9_refused : (Instr.init 9 0 [1, 2, 3, 4, 5, 6, 7, 8, 9] 3).wf = false := by decide

theorem test_wf_init_short_list_refused : (Instr.init 2 0 [1] 3).wf = false := by decide

theorem test_wf_init_bounds_allowed :
    (Instr.init 1 0xFF [1] 0).wf = true ∧ (Instr.init 8 0 [1, 2, 3, 4, 5, 6, 7, 8] 255).wf = true := by decide

theorem test_wf_b0 : Config.b0.wf = true := by decide

theorem test_wf_syncVal_wraps : ({ Config.b0 with addrSyncVal := 0x79 } : Params).syncValOk = false := by decide

theorem test_wf_modes_equal : ({ Config.b0 with valReceive := 0x04 } : Params).modesOk = false := by decide

theorem test_wf_mask_zero : ({ Config.b0 with flagPs := ⟨0x28, 0x00⟩ } : Params).masksOk = false := by decide

theorem test_wf_syncOn_zero : ({ Config.b0 with syncOn := 0x00 } : Params).syncOnOk = false := by decide

theorem test_wf_syncOn_overlaps : ({ Config.b0 with syncOn := 0xA0 } : Params).syncOnOk = false := by decide

theorem test_wf_addresses_equal : ({ Config.b0 with addrPlen := 0x01 } : Params).fixedOk = false := by decide

theorem test_wf_address_among_syncVal : ({ Config.b0 with addrPlen := 0x30 } : Params).fixedOk = false := by decide

theorem test_wf_cfg_writes_mode : ({ Config.b0 with cfgMod := [(0x01, 0x00)] } : Params).cfgOk = false := by decide

theorem test_wf_cfg_writes_syncVal : ({ Config.b0 with cfgPkt := [(0x36, 0x00)] } : Params).cfgOk = false := by decide

theorem test_wf_scratch_is_flags : ({ Config.b0 with addrScratch := 0x28 } : Params).scratchOk = false := by decide

theorem test_wf_bitrate_of_one : ({ Config.b0 with cfgBitrate := [(0x03, 0x7D)] } : Params).groupsOk = false := by decide

/-- R98 (f), (g): K = 256 is one too many, K = 255 the most. B0 has 11 entries besides those of `cfgMod`. -/
theorem test_wf_cfg_bound :
    ({ Config.b0 with cfgMod := List.replicate 243 (0x02, 0x00) } : Params).sizeOk = false ∧
    ({ Config.b0 with cfgMod := List.replicate 242 (0x02, 0x00) } : Params).sizeOk = true := by decide +kernel

/-! ## Decoding: words written out from the spec -/

theorem test_decode_V1 : decode (.bracket [0x80, 0x00]) = .ok (.w 0x00 0x00) := by decide

theorem test_decode_V2 : decode (.bracket [0xFF, 0xFF]) = .ok (.w 0x7F 0xFF) := by decide

theorem test_decode_V4 : decode (.bracket [0b10000001, 0b00000100]) = .ok (.w 0x01 0x04) := by decide

theorem test_decode_V7 : decode (.bracket [0x28, 0xFF]) = .ok (.r 0x28 0xFF) := by decide

theorem test_decode_V8 : decode (.bracket [0x80]) = .ok (.bw 0x00 []) := by decide

theorem test_decode_V9 : decode (.bracket [0x80, 0xAA, 0xBB]) = .ok (.bw 0x00 [0xAA, 0xBB]) := by decide

theorem test_decode_read_of_three : decode (.bracket [0x28, 0x00, 0x00]) = .error .readNotTwoBytes := by decide

theorem test_decode_empty : decode (.bracket []) = .error .emptyBracket ∧ decode (.command []) = .error .emptyCommand := by
  decide

theorem test_decode_burst_of_256 : decode (.bracket (0x80 :: List.replicate 256 0)) = .error .burstTooLong := by decide +kernel

theorem test_decode_commands :
    decode (.command [0b00]) = .ok .reserved ∧
    decode (.command [0b01, 1, 0, 3, 0x2D, 0xD4]) = .ok (.init 2 0 [0x2D, 0xD4] 3) ∧
    decode (.command [0b10, 8]) = .ok (.poll 8) ∧
    decode (.command [0b11, 2, 0]) = .ok (.tx 2 false) := by decide

theorem test_decode_command_errors :
    decode (.command [0b100]) = .error .codeNotTwoBits ∧
    decode (.command [0b10]) = .error .operandMissing ∧
    decode (.command [0b11, 2, 2]) = .error .notBool := by decide

/-- V20 to V29 and the pseudo-operations under B0: the bytes each micro-operation sends. -/
theorem test_encode_micro :
    encode Config.b0 [] (.wreg 0x38 0x02) = .bracket [0xB8, 0x02] ∧
    encode Config.b0 [] (.rreg 0x38) = .bracket [0x38, 0x00] ∧
    encode Config.b0 [0xAA, 0xBB] (.fifowr 2) = .bracket [0x80, 0xAA, 0xBB] ∧
    encode Config.b0 [] (.setmode .standby) = .bracket [0x81, 0x04] ∧
    encode Config.b0 [] (.setmode .transmit) = .bracket [0x81, 0x0C] ∧
    encode Config.b0 [] (.setmode .receive) = .bracket [0x81, 0x10] ∧
    encode Config.b0 [] .clrfifo = .bracket [0xA8, 0x10] ∧
    encode Config.b0 [] (.rflag .ps) = .bracket [0x28, 0x00] := by decide

/-- The rows of spec/opcode_table.json, by match value. -/
theorem test_table_words :
    decodeTableWord 16 0x8000 = some (.w 0 0) ∧
    decodeTableWord 16 0xB802 = some (.w 0x38 0x02) ∧
    decodeTableWord 16 0x2800 = some (.r 0x28 0) ∧
    decodeTableWord 8 0x80 = some (.bw 0 []) ∧
    decodeTableWord 8 0b00 = some .reserved ∧
    decodeTableWord 8 0b01 = some (.init 1 0 [0] 0) ∧
    decodeTableWord 8 0b10 = some (.poll 0) ∧
    decodeTableWord 8 0b11 = some (.tx 0 false) := by decide

/-- R96's examples. -/
theorem test_written :
    (Instr.wreg 0x2E 0x88).written.toList = "WREG 0x2E, 0x88".toList ∧
    (Instr.setmode .standby).written.toList = "SETMODE Standby".toList := by decide

/-! ## The instructions -/

/-- V20: both bytes the chip returns are discarded. -/
theorem test_wreg_V20 :
    out (fun t => (t.trace, t.rxd, t.regs.read? 0x38)) (exec (.wreg 0x38 0x02) (at_ .idle .none [0x5A, 0xC3])) =
      some ([.acq, .csLow, .x 0xB8 0x5A, .x 0x02 0xC3, .csHigh, .rel], none, some 0x02) := by decide

/-- R110, R76: an earlier value is replaced; the neighbours stay. -/
theorem test_w_overwrites :
    out (fun t => t.regs) (exec (.w 0x38 0x02) { at_ .idle .none [0, 0] with regs := [(0x37, 7), (0x38, 8), (0x39, 9)] })
      = some [(0x37, 7), (0x38, 2), (0x39, 9)] := by decide

/-- V21: the second byte returned, not the first. -/
theorem test_rreg_V21 :
    out (fun t => (t.trace, t.rxd)) (exec (.rreg 0x38) (at_ .idle .none [0x77, 0x03])) =
      some ([.acq, .csLow, .x 0x38 0x77, .x 0x00 0x03, .csHigh, .rel], some 0x03) := by decide

/-- V7: the dummy byte of the frame is the one sent. -/
theorem test_r_sends_its_dummy :
    out (fun t => (t.trace, t.rxd)) (exec (.r 0x28 0xFF) (at_ .idle .none [0x77, 0x03])) =
      some ([.acq, .csLow, .x 0x28 0x77, .x 0xFF 0x03, .csHigh, .rel], some 0x03) := by decide

/-- V9. -/
theorem test_bw_V9 :
    out (fun t => (transactions t.trace, t.idx, t.fifoIn)) (exec (.bw 0x00 [0xAA, 0xBB]) (at_ .idle .none [0, 0, 0])) =
      some ([some (.bw 0x00 [0xAA, 0xBB])], 2, [0xAA, 0xBB]) := by decide

theorem test_bw_too_long_refused :
    refusal? (exec (.bw 0x00 (List.replicate 256 0)) State.reset) = some .burstTooLong := by decide +kernel

/-- V23. -/
theorem test_fifowr_V23 :
    out (fun t => (t.trace, t.idx))
      (exec (.fifowr 2) { at_ .idle .none [1, 2, 3] with buffer := [(0, 0xAA), (1, 0xBB)] }) =
      some ([.acq, .csLow, .x 0x80 1, .bufRd 0 0xAA, .x 0xAA 2, .bufRd 1 0xBB, .x 0xBB 3, .csHigh, .rel], 2) := by decide

/-- V24: no byte of the buffer, `idx` 0 even from elsewhere. -/
theorem test_fifowr_V24 :
    out (fun t => (t.trace, t.idx)) (exec (.fifowr 0) { at_ .idle .none [1] with idx := 9 }) =
      some ([.acq, .csLow, .x 0x80 1, .csHigh, .rel], 0) := by decide

/-- Section 2.2: `SETMODE Standby` = 81 04, also when the mode is Standby already. -/
theorem test_setmode_standby :
    out (fun t => (transactions t.trace, t.gMode))
      (exec (.setmode .standby) { at_ .idle .none [0, 0] with gMode := .known .standby }) =
      some ([some (.w 0x01 0x04)], .known .standby) := by decide

/-- R132: CLRFIFO = A8 10; what was pushed is gone. -/
theorem test_clrfifo :
    out (fun t => (transactions t.trace, t.fifoIn, t.gMode))
      (exec .clrfifo { at_ .idle .none [0, 0] with fifoIn := [1, 2] }) =
      some ([some (.w 0x28 0x10)], [], .unknown) := by decide

/-- V26 and V27. -/
theorem test_rflag_V26_V27 :
    out (State.flagResult .ps) (exec (.rflag .ps) (at_ .idle .none [0, 0x08])) = some true ∧
    out (State.flagResult .ps) (exec (.rflag .ps) (at_ .idle .none [0, 0x44])) = some false := by decide

/-- V28 and V29. -/
theorem test_rflag_V28_V29 :
    out (State.flagResult .pr) (exec (.rflag .pr) (at_ .idle .none [0, 0xFF])) = some true ∧
    out (State.flagResult .fne) (exec (.rflag .fne) (at_ .idle .none [0, 0x00])) = some false := by decide

/-- R24, R145: the latches. -/
theorem test_init_latches :
    out (fun t => (t.seq, t.cmd, t.syncLen, t.syncVal[0], t.syncVal[1], t.rxPlen))
      (exec (.init 2 0 [0x2D, 0xD4] 3) { State.reset with syncVal := #v[9, 9, 9, 9, 9, 9, 9, 9] }) =
      some (.i1w, .init, 2, 0x2D, 0xD4, 3) := by decide

/-- V72. -/
theorem test_init_V72 :
    refusal? (exec (.init 0 0 [] 3) State.reset) = some .invalidSyncLength ∧
    refusal? (exec (.init 9 0 [1, 2, 3, 4, 5, 6, 7, 8, 9] 3) State.reset) = some .invalidSyncLength := by decide

/-- R166. -/
theorem test_poll_starts :
    out (fun t => (t.seq, t.cmd, t.cap, t.idx, t.rxd))
      (exec (.poll 8) { State.reset with idx := 5, rxd := some 1 }) = some (.p1, .poll, 8, 0, none) := by decide

/-- V70. -/
theorem test_poll_V70 : fault? (exec (.poll 8) (txAt .t5p .transmit false [])) = some .cmdWhileBusy := by decide

/-- R25: both saved latches are cleared. -/
theorem test_tx_starts :
    out (fun t => (t.seq, t.cmd, t.svSync, t.svPlen)) (exec (.tx 2 true) { State.reset with svSync := some 1, svPlen := some 2 })
      = some (.t1m, .tx, none, none) := by decide

/-- R186: the master does not check the length (V65, V66 if a model runs them). -/
theorem test_tx_any_length :
    ok (exec (.tx 0 false) State.reset) = true ∧ ok (exec (.tx 67 false) State.reset) = true := by decide

/-- V71. -/
theorem test_reserved_V71 : refusal? (exec .reserved State.reset) = some .reservedCommand := by decide

/-! ## The sync-configuration byte (section 2.3) -/

theorem test_syncConfig_V30_V37 :
    syncConfigByte Config.b0 1 0 = 0x80 ∧ syncConfigByte Config.b0 2 1 = 0x89 ∧
    syncConfigByte Config.b0 5 7 = 0xA7 ∧ syncConfigByte Config.b0 8 7 = 0xBF := by decide

/-- U5: a tolerance out of its field is OR-ed in all the same. -/
theorem test_syncConfig_tolerance_unmasked :
    syncConfigByte Config.b0 1 0x08 = 0x88 ∧ syncConfigByte Config.b0 3 0x0F = 0x9F ∧
    syncConfigByte Config.b0 8 0x40 = 0xF8 := by decide

/-! ## The sequences, one step each -/

/-- V51: a mismatch repeats the write. -/
theorem test_step_liveness_V51 :
    seen (step (initAt .i1r [0, 0x00])) = some ([some (.r 0x2F 0x00)], .i1w) ∧
    seen (step (initAt .i1r [0, 0xAA])) = some ([some (.r 0x2F 0xAA)], .i1w2) := by decide

/-- V52: a stale 0xAA in the second loop repeats the second loop. -/
theorem test_step_liveness_V52 :
    seen (step (initAt .i1r2 [0, 0xAA])) = some ([some (.r 0x2F 0xAA)], .i1w2) ∧
    seen (step (initAt .i1r2 [0, 0x55])) = some ([some (.r 0x2F 0x55)], .i2 0) := by decide

/-- PR1: the last entries of CFG (K = 14): CLRFIFO is not last, the payload length is. -/
theorem test_step_cfg_PR1 :
    seen (step (initAt (.i2 10) [0, 0])) = some ([some (.w 0x28 0x10)], .i2 11) ∧
    seen (step (initAt (.i2 13) [0, 0])) = some ([some (.w 0x38 0x03)], .i3c) := by decide

/-- PR1: AE 88, AF 2D, B0 D4, BC 8F. -/
theorem test_step_sync_PR1 :
    seen (step (initAt .i3c [0, 0])) = some ([some (.w 0x2E 0x88)], .i3v 0) ∧
    seen (step (initAt (.i3v 0) [0, 0])) = some ([some (.w 0x2F 0x2D)], .i3v 1) ∧
    seen (step (initAt (.i3v 1) [0, 0])) = some ([some (.w 0x30 0xD4)], .i4) ∧
    seen (step (initAt .i4 [0, 0])) = some ([some (.w 0x3C 0x8F)], .i5) := by decide

/-- PR1's end. -/
theorem test_step_init_ends :
    out (fun t => (transactions t.trace, t.seq, t.gMode, t.gConfigured)) (step (initAt .i5 [0, 0])) =
      some ([some (.w 0x01 0x10)], .idle, .known .receive, true) := by decide

/-- V40 and V44: not ready, and ready with no capacity. -/
theorem test_step_poll_V40_V44 :
    out (fun t => (t.seq, t.resReceived, t.resLen)) (step (pollAt .p1 0 8 [0, 0x00])) = some (.idle, false, 0) ∧
    out (fun t => (t.seq, t.resReceived, t.resLen)) (step (pollAt .p1 0 0 [0, 0x04])) = some (.idle, true, 0) := by decide

/-- V42: the second byte of two ends the command with no flag read. -/
theorem test_step_poll_V42 :
    out (fun t => (t.seq, t.resReceived, t.resLen, t.buffer.read? 1)) (step (pollAt .p3 1 2 [0, 0xAD])) =
      some (.idle, true, 2, some 0xAD) := by decide

/-- V48: the 255th byte of 255. -/
theorem test_step_poll_V48 :
    out (fun t => (t.seq, t.idx, t.resLen)) (step (pollAt .p3 254 255 [0, 1])) = some (.idle, 255, 255) := by decide

/-- V49: bits outside the mask are ignored. -/
theorem test_step_poll_V49 :
    out (fun t => (t.seq, t.resReceived, t.resLen)) (step (pollAt .p2 0 8 [0, 0x0C])) = some (.idle, true, 0) := by decide

/-- V60, PR4: the labels of TX with suppression. -/
theorem test_step_tx_PR4 :
    seen (step (txAt .t2w .standby true [0, 0])) = some ([some (.w 0x2E 0x00)], .t3r) ∧
    seen (step (txAt .t5p .transmit true [0, 0x08])) = some ([some (.r 0x28 0x08)], .t6m) ∧
    seen (step (txAt .t6w .standby true [0, 0])) = some ([some (.w 0x2E 0x88)], .t7w) := by decide

/-- PR3: without suppression, from T1c to T3r and from T5p to T7w. -/
theorem test_step_tx_PR3 :
    seen (step (txAt .t1c .standby false [0, 0])) = some ([some (.w 0x28 0x10)], .t3r) ∧
    seen (step (txAt .t5p .transmit false [0, 0x40])) = some ([some (.r 0x28 0x40)], .t5p) ∧
    seen (step (txAt .t5p .transmit false [0, 0x08])) = some ([some (.r 0x28 0x08)], .t7w) := by decide

/-- V75: nothing happens while another user owns the bus; the grant comes at the next attempt. -/
theorem test_step_held_V75 :
    out id (step { txAt .t5m .standby false [0, 0] with arbiter := [false, true] }) =
      some { txAt .t5m .standby false [0, 0] with arbiter := [true] } := by decide

/-- V73. -/
theorem test_reset_between_V73 :
    out (fun t => (t.seq, t.csN, t.svPlen, t.gMode)) (step { txAt .t5p .transmit false [] with host := [.reset] }) =
      some (.idle, 1, none, .unknown) ∧
    out (fun t => t.trace) (step { txAt .t5p .transmit false [] with host := [.reset] }) = some [] := by decide

/-- V74: a reset after one data byte of the burst. -/
theorem test_reset_inside_V74 :
    out (fun t => (t.trace, t.seq, t.regs))
      (step { txAt .t4 .standby false [1, 2] with host := [.resetIn 2], regs := [(1, 4)] }) =
      some ([.acq, .csLow, .x 0x80 1, .bufRd 0 0xAA, .x 0xAA 2, .csHigh, .rel], .idle, []) := by decide

/-- R210: a bus never granted again; a schedule that ends in grants lets the master on. -/
theorem test_stuck_at_acquire :
    out (fun t => (t.trace, t.seq)) (run 3 { txAt .t5m .standby false [0, 0] with arbiterEnd := .never }) =
      some ([], .t5m) ∧
    out (fun t => t.seq) (run 2 { txAt .t5m .standby false [0, 0] with arbiter := [false] }) = some .t5p := by decide

/-- R24: no operand survives its command, nor the Start of another; whatever the free value is. -/
theorem test_operands_are_dropped :
    out (fun t => t.syncLen) (step (initAt .i5 [0, 0])) = some (Config.staleSyncLen 0) ∧
    out (fun t => (t.cap, t.txLen)) (exec (.tx 2 true) { State.reset with cap := 7 }) = some (Config.staleCap 0, 2) :=
  ⟨rfl, rfl⟩

/-- R94: the second of two commands laid before the master at once. -/
theorem test_host_overlapping_start :
    fault? (step { txAt .t1m .receive false [] with host := [.issue (.command [0b10, 8])] }) = some .cmdWhileBusy := by decide

/-- R43, log 5: the host loads its buffer, and waits while a command runs. -/
theorem test_host_load_and_await :
    out (fun t => t.buffer) (step { State.reset with host := [.load [7, 8]] }) = some [(0, 7), (1, 8)] ∧
    out (fun t => t.host) (step { State.reset with host := [.await] }) = some [] := by decide

/-- log 7: a raw frame is kept waiting while the bus is another's. -/
theorem test_host_frame_waits :
    out (fun t => (t.host, t.arbiter)) (step { State.reset with host := [.issue (.bracket [0x80, 0])], arbiter := [false] })
      = some ([.issue (.bracket [0x80, 0])], []) := by decide

/-- log 16: a word placed after reset is what the next step runs. -/
theorem test_withFetchWord :
    out (fun t => (t.seq, t.cap)) (step (State.reset.withFetchWord 8 0b10)) = some (.p1, 0) ∧
    out (fun t => t.regs.read? 0x38) (step ({ State.reset with rx := [0, 0] }.withFetchWord 16 0xB802)) = some (some 2) := by
  decide

/-- A write of what stands there, and a write between two cells, keep the canonical form. -/
theorem test_memory_canonical :
    Memory.write [(1, 5), (3, 6)] 2 9 = [(1, 5), (2, 9), (3, 6)] ∧ Memory.wf [(1, 5), (2, 9), (3, 6)] = true ∧
    Memory.wf [(2, 5), (2, 9)] = false := by decide

/-! ## Every obligation's hypotheses are met -/

theorem test_meets_EncodedInstructionDecodesBack :
    (Instr.init 8 0 [1, 2, 3, 4, 5, 6, 7, 8] 255).wf = true ∧ (Instr.bw 0x7F (List.replicate 255 1)).wf = true ∧
    (Instr.fifowr 255).wf = true := by decide +kernel

theorem test_meets_DecodedBracketEncodesBack : decode (.bracket [0xFF, 0xFF]) = .ok (.w 0x7F 0xFF) := by decide

theorem test_meets_MalformedWordsAreRefused :
    writeMarker 0x7F = false ∧ ([] : List Byte).length ≠ 1 ∧ 4 ≤ (0x04 : Byte).toNat ∧
    { State.reset with host := [.issue (.bracket [])] }.host = [.issue (.bracket [])] ∧
    decode (.bracket []) = .error .emptyBracket := by decide

theorem test_meets_StepRunsTheIssuedWord :
    decode (.command [0b10, 8]) = .ok (.poll 8) ∧ (Instr.poll 8).wf = true ∧ isFrame (.poll 8) = false ∧
    decode (.bracket [0x28, 0x00]) = .ok (.r 0x28 0x00) ∧ isFrame (.r 0x28 0x00) = true ∧
    { State.reset with host := [.issue (.bracket [0x28, 0x00])] }.busHeld = false ∧
    { State.reset with host := [.issue (.bracket [0x28, 0x00])], arbiter := [false] }.busHeld = true ∧
    (txAt .t5p .transmit false []).seq ≠ .idle := by decide

theorem test_meets_StepRunsTheLabelsMicroOperation :
    (initAt .i1w [0, 0]).host = [] ∧ (initAt .i1w [0, 0]).busHeld = false ∧
    microOp .i1w (initAt .i1w [0, 0]) = .ok (.wreg 0x2F 0xAA) ∧
    ok (exec (.wreg 0x2F 0xAA) (initAt .i1w [0, 0])) = true := by decide

theorem test_meets_PlacedTableWordRunsNext : decodeTableWord 8 0b11 = some (.tx 0 false) := by decide

theorem test_meets_MasterWaits :
    State.reset.host = [] ∧ State.reset.seq = .idle ∧
    { initAt .i1w [] with arbiter := [false] }.busHeld = true ∧ (Instr.rreg 0).wf = true ∧
    (Instr.rreg 0).frameBytes Config.b0 [] ≠ [] := by decide

/-- A bus never granted again, and one that is, after two refusals. -/
theorem test_meets_MasterWaits_bus :
    { initAt .i1w [] with arbiterEnd := .never }.arbiter = [] ∧
    { initAt .i1w [] with arbiterEnd := .never }.arbiterEnd = .never ∧ (initAt .i1w []).seq ≠ .idle ∧
    { initAt .i1w [] with arbiter := [false, false] }.fair = true ∧
    { initAt .i1w [] with arbiter := [false, false] }.host = [] := by decide

/-- The host's own moves, before an idle master and before a busy one. -/
theorem test_meets_MasterWaits_host :
    { State.reset with host := [.await] }.host = [.await] ∧ { State.reset with host := [.await] }.seq = .idle ∧
    { txAt .t5p .transmit false [] with host := [.await] }.seq ≠ .idle ∧
    { txAt .t5p .transmit false [] with host := [.pause] }.host = [.pause] ∧
    { State.reset with host := [.load [7]] }.seq = .idle ∧
    { txAt .t5p .transmit false [] with host := [.load [7]] }.seq ≠ .idle := by decide

theorem test_meets_granted_bus : (at_ .idle .none []).busHeld = false ∧ { State.reset with arbiter := [true] }.busHeld = false := by
  decide

theorem test_meets_BurstFrameSendsItsData :
    (List.replicate 255 (0 : Byte)).length ≤ 255 ∧ 255 < (List.replicate 256 (0 : Byte)).length := by decide +kernel

theorem test_meets_ClrfifoIsOneWrite : State.reset.cfg.fixedOk = true ∧ State.reset.busHeld = false := by decide

theorem test_meets_Starts :
    State.reset.seq = .idle ∧ initOk 1 [0xA5] = true ∧ initOk 8 [1, 2, 3, 4, 5, 6, 7, 8] = true := by decide

theorem test_meets_StartWhileBusyFaults :
    (txAt .t5p .transmit false []).seq ≠ .idle ∧
    { txAt .t5p .transmit false [] with host := [.issue (.command [0b10, 8])] }.host = [.issue (.command [0b10, 8])] ∧
    decode (.command [0b10, 8]) = .ok (.poll 8) ∧ Instr.poll 8 ≠ .reserved := by decide

theorem test_meets_StartsOutsideTheTypesAreRefused :
    { State.reset with host := [.issue (.command [0b00, 1, 2])] }.host = [.issue (.command (0b00 :: [1, 2]))] ∧
    (0 < 1 ∨ 8 < 0 ∨ ([] : List Byte).length ≠ 0) ∧ (9 < 1 ∨ 8 < 9 ∨ ([] : List Byte).length ≠ 9) := by decide

/-- The writing, reading, bursting and starting instructions each go on from reset. -/
theorem test_meets_frames :
    ok (exec (.w 1 2) (at_ .idle .none [0, 0])) = true ∧ ok (exec (.wreg 1 2) (at_ .idle .none [0, 0])) = true ∧
    ok (exec .clrfifo (at_ .idle .none [0, 0])) = true ∧ ok (exec (.setmode .receive) (at_ .idle .none [0, 0])) = true ∧
    ok (exec (.r 1 0) (at_ .idle .none [0, 0])) = true ∧ ok (exec (.rreg 1) (at_ .idle .none [0, 0])) = true ∧
    ok (exec (.rflag .pr) (at_ .idle .none [0, 0])) = true ∧ ok (exec (.bw 1 [2]) (at_ .idle .none [0, 0])) = true ∧
    ok (exec (.fifowr 0) (at_ .idle .none [0])) = true ∧ ok (exec (.init 1 0 [0] 0) State.reset) = true ∧
    ok (exec (.poll 0) State.reset) = true ∧ ok (exec (.tx 1 true) State.reset) = true := by decide

theorem test_meets_LivenessIterations :
    (initAt .i1w []).alone = true ∧ (initAt .i1r [0, 0xAA]).alone = true ∧
    (initAt .i1r2 [0, 0x54]).answerAt 1 ≠ 0x55 ∧ (initAt .i1r2 [0, 0x55]).answerAt 1 = 0x55 := by decide

theorem test_meets_ConfigurationWrites :
    (initAt (.i2 0) []).alone = true ∧ (cfgList Config.b0 3)[0]? = some (0x02, 0x00) ∧
    0 + 1 < (initAt (.i2 0) []).cfgLength ∧ (cfgList Config.b0 3)[13]? = some (0x38, 3) ∧
    13 + 1 = (initAt (.i2 13) []).cfgLength ∧ (initAt (.i2 13) []).cfg.sizeOk = true := by decide

theorem test_meets_SyncConfigurationWrite :
    (initAt .i3c []).alone = true ∧ (initAt .i3c []).initLatched = true := by decide

theorem test_meets_SyncConfigurationFields :
    Config.b0.syncOnOk = true ∧ ({ Config.b0 with syncOn := 0x40 } : Params).syncOnOk = true ∧ (7 : Byte).toNat < 8 := by
  decide

theorem test_meets_SyncByteWrites :
    (initAt (.i3v 0) []).alone = true ∧ (initAt (.i3v 0) []).initLatched = true ∧
    (0 : Fin 8).val < (initAt (.i3v 0) []).syncLen.toNat ∧ (1 : Fin 8).val = (0 : Fin 8).val + 1 ∧
    (1 : Fin 8).val < (initAt (.i3v 0) []).syncLen.toNat ∧
    (1 : Fin 8).val + 1 = (initAt (.i3v 1) []).syncLen.toNat ∧ (initAt (.i3v 1) []).cfg.syncValOk = true := by decide

theorem test_meets_InitThresholdThenReceive :
    (initAt .i4 []).alone = true ∧ (initAt .i5 []).alone = true ∧ (initAt .i5 []).seq = .i5 := by decide

theorem test_meets_PollNotReadyEndsAtOnce :
    (pollAt .p1 0 8 [0, 0xFB]).alone = true ∧ (pollAt .p1 0 8 [0, 0xFB]).answerAt 1 &&& Config.b0.flagPr.mask = 0 := by
  decide

theorem test_meets_PollReadyTestsTheCount :
    (pollAt .p1 0 1 [0, 4]).answerAt 1 &&& Config.b0.flagPr.mask ≠ 0 ∧ (pollAt .p1 0 1 [0, 4]).idx < (1 : Byte) ∧
    (pollAt .p1 0 0 [0, 4]).cap ≤ (pollAt .p1 0 0 [0, 4]).idx := by decide

theorem test_meets_PollFifoFlag :
    (pollAt .p2 0 1 [0, 0x40]).alone = true ∧ (pollAt .p2 0 1 [0, 0x40]).answerAt 1 &&& Config.b0.flagFne.mask ≠ 0 ∧
    (pollAt .p2 0 1 [0, 0xBF]).answerAt 1 &&& Config.b0.flagFne.mask = 0 := by decide

theorem test_meets_PollStoresTheByte :
    (pollAt .p3 254 255 []).alone = true ∧ (pollAt .p3 254 255 []).idx < (pollAt .p3 254 255 []).cap ∧
    (pollAt .p3 0 2 []).idx + 1 < (pollAt .p3 0 2 []).cap ∧
    (pollAt .p3 254 255 []).idx + 1 = (pollAt .p3 254 255 []).cap := by decide

theorem test_meets_tx_labels :
    (txAt .t1m .receive false []).alone = true ∧ (txAt .t2r .standby true []).alone = true ∧
    (txAt .t3w .standby true []).alone = true ∧ (txAt .t4 .standby false []).alone = true ∧
    (txAt .t5m .standby false []).alone = true := by decide

theorem test_meets_TxSpinsOnPacketSent :
    (txAt .t5p .transmit false [0, 0xF7]).answerAt 1 &&& Config.b0.flagPs.mask = 0 ∧
    (txAt .t5p .transmit false [0, 8]).answerAt 1 &&& Config.b0.flagPs.mask ≠ 0 := by decide

theorem test_meets_TxRestores :
    (txAt .t6w .standby true []).svSync = some 0x88 ∧ (txAt .t6w .standby false []).svSync = none ∧
    (txAt .t7w .standby true []).svPlen = some 0x03 ∧ (txAt .t7w .standby true []).alone = true ∧
    { txAt .t7w .standby true [] with svPlen := none }.svPlen = none := by decide

theorem test_meets_ResetEventResetsTheMasterOnly :
    { txAt .t5p .transmit false [] with host := [.reset] }.host = [.reset] ∧
    { State.reset with host := [.resetIn 1] }.host = [.resetIn 1] ∧ { State.reset with host := [.resetIn 1] }.seq = .idle ∧
    { txAt .t5p .transmit false [] with host := [.resetIn 1], arbiter := [false] }.busHeld = true := by decide

theorem test_meets_ResetInsideTheBurst :
    { txAt .t4 .standby false [] with host := [.resetIn (2 + 1)] }.busHeld = false ∧
    { txAt .t4 .standby false [] with host := [.resetIn 0] }.host = [.resetIn 0] ∧
    { txAt .t3r .standby false [] with host := [.resetIn 1] }.busHeld = false ∧
    microOp .t3r { txAt .t3r .standby false [] with host := [.resetIn 1] } = .ok (.rreg 0x38) ∧
    microOp .t7m { txAt .t7m .standby true [] with host := [.resetIn 2] } = .ok (.setmode .receive) := by decide

/-- A cut after the address byte of a read, and one past the end of T4's burst of two bytes. -/
theorem test_reset_inside_others :
    out (fun t => (t.trace, t.rxd)) (step { txAt .t3r .standby false [1, 2] with host := [.resetIn 1] }) =
      some ([.acq, .csLow, .x 0x38 1, .csHigh, .rel], none) ∧
    out (fun t => t.trace.length) (step { txAt .t4 .standby false [1, 2, 3] with host := [.resetIn 9] }) = some 9 := by
  decide

/-- The invariant is met, and kept over a step, by states of every command. -/
theorem test_meets_EveryStepKeepsTheInvariant :
    (initAt (.i2 13) [0, 0]).inv = true ∧ (pollAt .p3 0 2 [0, 1]).inv = true ∧ (txAt .t6w .standby true [0, 0]).inv = true ∧
    out State.inv (step (txAt .t6w .standby true [0, 0])) = some true := by decide

theorem test_meets_OnlyAnOverlappingWordFaults :
    { txAt .t1m .receive false [] with host := [.issue (.command [0b10, 8])] }.inv = true ∧
    fault? (step { txAt .t1m .receive false [] with host := [.issue (.command [0b10, 8])] }) = some .cmdWhileBusy := by decide

theorem test_meets_ModeTransitionsAreTheTables :
    (txAt .t7m .transmit false [0, 0]).inv = true ∧
    out (fun t => t.gMode) (step (txAt .t7m .transmit false [0, 0])) = some (.known .receive) ∧
    (txAt .t7m .transmit false [0, 0]).gMode ≠ .known .receive := by decide

theorem test_meets_CommandsEndInReceive :
    (txAt .t7m .standby true [0, 0]).inv = true ∧ (txAt .t7m .standby true [0, 0]).resetNext = false ∧
    out (fun t => t.seq) (step (txAt .t7m .standby true [0, 0])) = some .idle := by decide

/-- A configured POLL that is about to find nothing, and the Idle state after it. -/
theorem test_meets_CommandsEndInReceive_resting :
    State.reset.resting = true ∧
    { pollAt .p1 0 8 [0, 0] with gMode := .known .receive, gConfigured := true }.inv = true ∧
    { pollAt .p1 0 8 [0, 0] with gMode := .known .receive, gConfigured := true }.resting = true ∧
    out (fun t => (t.inv, t.resting, t.seq, t.gConfigured))
      (step { pollAt .p1 0 8 [0, 0] with gMode := .known .receive, gConfigured := true }) =
      some (true, true, .idle, true) := by decide

/-- The shortest INIT (no entry in any group of CFG, one sync byte), run from reset to its Done. -/
theorem test_meets_CommandsEndInReceive_run :
    out (fun t => (t.seq, t.gConfigured))
      (run 11 { State.reset with
        cfg := { Config.b0 with
          cfgMod := [], cfgBitrate := [], cfgFdev := [], cfgFrf := [], cfgRxbw := [], cfgPkt := [], cfgPreamble := [] }
        rx := [0, 0, 0, 0xAA, 0, 0, 0, 0x55]
        arbiter := []
        host := [.issue (.command [0b01, 0, 0, 3, 0x2D])] }) = some (.idle, true) := by decide +kernel

theorem test_meets_ConfiguredOnlyByInit :
    (initAt .i5 [0, 0]).gConfigured = false ∧ out (fun t => t.gConfigured) (step (initAt .i5 [0, 0])) = some true := by decide

theorem test_meets_TxWritesSyncOnlyInStandby :
    (txAt .t2w .standby true [0, 0]).inv = true ∧ (txAt .t2w .standby true [0, 0]).cfg.fixedOk = true ∧
    out (fun t => decide (some (.w 0x2E 0x00) ∈ transactions (newEvents (txAt .t2w .standby true [0, 0]) t)))
      (step (txAt .t2w .standby true [0, 0])) = some true := by decide

theorem test_meets_PollOnlyReads :
    (pollAt .p3 0 2 [0, 1]).alone = true ∧ (pollAt .p3 0 2 [0, 1]).inv = true ∧ ok (step (pollAt .p3 0 2 [0, 1])) = true := by
  decide

theorem test_meets_PollAlwaysEnds :
    (pollAt .p1 0 255 []).alone = true ∧ (pollAt .p1 0 255 []).seq = .p1 ∧ (pollAt .p1 0 255 []).idx = 0 := by decide

/-- A frame of two bytes into room for three, and into room for one. -/
theorem test_meets_PollDeliversTheFrame :
    (pollAt .p1 0 3 [0, 4, 0, 0x40, 0, 9, 0, 0x40, 0, 7, 0, 0]).drains [9, 7] 3 ∧
    (pollAt .p1 0 1 [0, 4, 0, 0x40, 0, 9]).drains [9, 7] 1 := by
  unfold State.drains
  decide

theorem test_meets_LivenessEndsUnderEPlain :
    out (State.ePlain 0x2F) (step (initAt .i1w [0, 0, 0, 0xAA])) = some true ∧
    out (State.ePlain 0x2F) (step (initAt .i1w2 [0, 0, 0, 0x55])) = some true := by decide

/-- V51: two iterations of the first loop, one of the second. -/
theorem test_meets_InitRunsItsTransactions :
    livenessAnswers 0xAA 0 1 (initAt .i1w [0, 0, 0, 0, 0, 0, 0, 0xAA, 0, 0, 0, 0x55]) ∧
    livenessAnswers 0x55 (4 * (1 + 1)) 0 (initAt .i1w [0, 0, 0, 0, 0, 0, 0, 0xAA, 0, 0, 0, 0x55]) := by
  unfold livenessAnswers
  decide

/-- One clear packet-sent read and one set, without suppression. -/
theorem test_meets_TxRunsItsTransactions :
    (txAt .t1m .receive false (List.replicate 16 0 ++ [0x08])).txSent 1 ∧
    (txAt .t1m .receive false []).cfg.fixedOk = true := by
  unfold State.txSent
  decide

theorem test_meets_TxSpinLastsUntilSent :
    (txAt .t5p .transmit false [0, 0, 0, 8]).sentAfter 1 ∧ (txAt .t5p .transmit false [0, 0, 0, 8]).alone = true := by
  unfold State.sentAfter
  decide

/-! A chip over time for the premises E-RXFIFO and E-SENT -/

/-- A chip is the chip of a run that comes to rest, if it answered the transactions the run has then made. -/
theorem chipOf_of {s : State} {h : ChipRun} (k : Nat) (ts : List Txn) (m : Nat)
    (hact : ∀ j x, ts[j]? = some x → h.act (k + j) = .txn x)
    (hpre : ∀ n, n ≤ m → ∃ l, out (fun t => transactions (newEvents s t)) (run n s) = some ((ts.take l).map some))
    (hend : out (fun t => t.alone && t.seq == .idle) (run m s) = some true) : h.chipOf s (k + ·) := by
  refine ⟨fun i j hij => by simp only; omega, fun n j t x hrun hx => ?_, fun i x hi _ => ⟨i - k, by simp only at *; omega⟩⟩
  have hall : ∃ l, transactions (newEvents s t) = (ts.take l).map some := by
    by_cases hn : n ≤ m
    · obtain ⟨l, hl⟩ := hpre n hn
      rw [hrun] at hl
      exact ⟨l, Option.some.inj hl⟩
    · obtain ⟨l, hl⟩ := hpre m (Nat.le_refl m)
      cases hm : run m s with
      | next u =>
        rw [hm] at hl hend
        have he : u.alone = true ∧ u.seq = .idle := by simpa [out] using hend
        rw [show n = m + (n - m) by omega, run_add _ hm, run_alone_idle _ he.1 he.2] at hrun
        cases hrun
        exact ⟨l, Option.some.inj hl⟩
      | fault f => rw [hm] at hend; cases hend
      | refused f => rw [hm] at hend; cases hend
  obtain ⟨l, hl⟩ := hall
  rw [hl, List.getElem?_map, List.getElem?_take] at hx
  split at hx
  · cases hj : ts[j]? with
    | none => rw [hj] at hx; cases hx
    | some y => rw [hj] at hx; cases hx; exact hact j x hj
  · cases hx

/-- A frame of one byte is received in Receive and drained by a POLL. -/
def pollChip : ChipRun where
  act
    | 0 => .txn (.w 0x38 1)
    | 1 => .txn (.w 0x01 0x10)
    | 2 => .receive [9]
    | 3 => .txn (.r 0x28 0x44)
    | 4 => .txn (.r 0x28 0x40)
    | 5 => .txn (.r 0x00 9)
    | 6 => .txn (.r 0x28 0x00)
    | _ => .own
  view n := { fifo := if 3 ≤ n ∧ n ≤ 5 then [9] else [], pr := n == 3, fne := 3 ≤ n && n ≤ 5, ps := false, mode := some .receive }

theorem test_meets_PollDeliversTheFrame_chip :
    pollChip.chipOf (pollAt .p1 0 3 [0, 0x44, 0, 0x40, 0, 9, 0, 0]) (3 + ·) ∧ pollChip.eRxFifo Config.b0 ∧
    (pollChip.view 3).fifo = [9] ∧
    ∀ i, 3 ≤ i → (pollChip.view i).mode = some .receive ∧ pollChip.oneFrame Config.b0 i ∧
      ((pollChip.act i).reads Config.b0.addrFifo = none → (pollChip.view (i + 1)).fifo = (pollChip.view i).fifo) := by
  refine ⟨chipOf_of 3 [.r 0x28 0x44, .r 0x28 0x40, .r 0x00 9, .r 0x28 0x00] 4 ?_ ?_ (by decide), ?_, rfl, ?_⟩
  · intro j x hx
    match j with
    | 0 | 1 | 2 | 3 => cases hx; rfl
    | j + 4 => cases hx
  · intro n hn
    refine ⟨n, ?_⟩
    match n with
    | 0 | 1 | 2 | 3 | 4 => decide
    | n + 5 => omega
  · intro n b _ _
    match n with
    | 3 =>
      refine ⟨fun _ _ => ⟨2, [9], 1, ⟨by omega, rfl, fun l h1 h2 => by omega⟩, rfl, rfl, rfl, by decide⟩, fun hb => ?_,
        fun x xs hb => ?_⟩
      · cases hb; decide
      · cases hb
    | 5 =>
      refine ⟨fun hb _ => ?_, fun hb => ?_, fun x xs hb hx => ?_⟩
      · cases hb
      · cases hb
      · cases hb; cases hx; exact ⟨rfl, rfl⟩
    | 4 | 6 =>
      refine ⟨fun hb hs => ?_, fun hb => ?_, fun x xs hb => ?_⟩
      · cases hb; cases hs
      · cases hb; decide
      · cases hb
    | 0 | 1 | 2 | n + 7 => exact ⟨fun hb _ => (by cases hb), fun hb => (by cases hb), fun x xs hb => (by cases hb)⟩
  · intro i hi
    have hlast : ∀ n, pollChip.lastGiven 0x38 (n + 1) = some 1 := by
      intro n
      induction n with
      | zero => rfl
      | succ n ih =>
        match n with
        | 0 | 1 | 2 | 3 | 4 | 5 | n + 6 => exact ih
    refine ⟨rfl, ⟨⟨1, ?_, by decide⟩, fun m frame hm => ?_⟩, fun hr => ?_⟩
    · obtain ⟨n, rfl⟩ : ∃ n, i = n + 1 := ⟨i - 1, by omega⟩
      exact hlast n
    · have hact := hm.2.1
      match m with
      | 2 => exact ⟨⟨1, rfl, by decide⟩, rfl⟩
      | 0 | 1 | 3 | 4 | 5 | 6 | m + 7 => cases hact
    match i with
    | 0 | 1 | 2 => omega
    | 3 | 4 | 6 => rfl
    | 5 => cases hr
    | i + 7 =>
      have h1 : ¬ (3 ≤ i + 7 ∧ i + 7 ≤ 5) := by omega
      have h2 : ¬ (3 ≤ i + 7 + 1 ∧ i + 7 + 1 ≤ 5) := by omega
      simp only [pollChip, if_neg h1, if_neg h2]

/-- A packet of one byte is sent by the time of the first packet-sent read. -/
def sendChip : ChipRun where
  act
    | 0 => .txn (.w 0x38 1)
    | 1 => .txn (.w 0x00 9)
    | 2 => .txn (.w 0x01 0x0C)
    | 3 => .txn (.r 0x28 0x08)
    | 4 => .txn (.w 0x38 3)
    | 5 => .txn (.w 0x01 0x10)
    | _ => .own
  view n := { fifo := if n = 2 then [9] else [], pr := false, fne := n == 2, ps := n == 3, mode := none }

theorem test_meets_TxSpinLastsUntilSent_chip :
    sendChip.chipOf (txAt .t5p .transmit false [0, 8, 0, 0, 0, 0]) (3 + ·) ∧ sendChip.eSent Config.b0 ∧
    sendChip.act 2 = .txn (.w Config.b0.addrMode Config.b0.valTransmit) ∧ (sendChip.view 2).fifo.length = 1 ∧
    sendChip.lastGiven Config.b0.addrPlen 2 = some 1 ∧ ∀ i, 2 < i → sendChip.act i ≠ .reset := by
  refine ⟨chipOf_of 3 [.r 0x28 0x08, .w 0x38 3, .w 0x01 0x10] 3 ?_ ?_ (by decide), ?_, rfl, rfl, rfl, ?_⟩
  · intro j x hx
    match j with
    | 0 | 1 | 2 => cases hx; rfl
    | j + 3 => cases hx
  · intro n hn
    refine ⟨n, ?_⟩
    match n with
    | 0 | 1 | 2 | 3 => decide
    | n + 4 => omega
  · intro k len _ _ _ _ _
    refine ⟨k + 1, by omega, fun j b _ _ hb => ?_⟩
    match j with
    | 3 => cases hb; decide
    | 0 | 1 | 2 | 4 | 5 | j + 6 => cases hb
  · intro i hi
    match i with
    | 0 | 1 | 2 => omega
    | 3 | 4 | 5 | i + 6 => intro h; cases h

end Sys2Proof.Tests
end

/-! The invariant and the constraints on the parameters, taken apart by name, and both at reset. -/

namespace Sys2Proof

theorem Params.wf_iff (p : Params) :
    p.wf = true ↔ p.syncValOk = true ∧ p.modesOk = true ∧ p.masksOk = true ∧ p.syncOnOk = true ∧ p.fixedOk = true ∧
      p.cfgOk = true ∧ p.scratchOk = true ∧ p.groupsOk = true ∧ p.sizeOk = true := by
  simp only [Params.wf, Bool.and_eq_true, and_assoc]

/-- Default binding B0 (GK1) meets R7 (b) to (h), R6's group sizes and log 17's bound, clause by clause. -/
theorem b0_wf : Config.b0.wf = true := by
  rw [Params.wf_iff]
  refine ⟨?syncVal, ?modes, ?masks, ?syncOn, ?fixed, ?cfg, ?scratch, ?groups, ?size⟩
  case syncVal | modes | masks | syncOn | fixed | cfg | scratch | groups | size => decide

end Sys2Proof

namespace Sys2Proof.Machine

theorem State.inv_iff (s : State) :
    s.inv = true ↔ s.busIdle = true ∧ s.labelOk = true ∧ s.memOk = true ∧ traceOk s.trace = true := by
  simp only [State.inv, Bool.and_eq_true, and_assoc]

theorem reset_busIdle : State.reset.busIdle = true := rfl

theorem reset_labelOk : State.reset.labelOk = true := rfl

/-- Reset begins with no events, so no bracket is open. -/
theorem reset_traceOk : traceOk State.reset.trace = true := rfl

theorem reset_inv : State.reset.inv = true :=
  (State.inv_iff _).2 ⟨reset_busIdle, reset_labelOk, reset_memOk, reset_traceOk⟩

/-- Settles O46: the invariant's four parts at R45's values, and B0's clauses of R7. -/
theorem invariantAtReset : Obligations.InvariantAtReset := ⟨reset_inv, b0_wf⟩

end Sys2Proof.Machine

/-! What every move keeps (`Continues`): the parameters, the bus given up between steps, memories in canonical form, whole
brackets only. -/

namespace Sys2Proof.Machine

/-- `t` comes after `s` by whole brackets and events outside brackets: what every move keeps of the invariant, whatever the
label (R44, R50, R115, R240). -/
structure Continues (s t : State) : Prop where
  busIdle : s.busIdle = true → t.busIdle = true
  memOk : s.memOk = true → t.memOk = true
  cfg : t.cfg = s.cfg
  trace : ∃ es, traceOk es = true ∧ t.trace = s.trace ++ es

theorem Continues.trans {s t u : State} (h : Continues s t) (k : Continues t u) : Continues s u := by
  obtain ⟨es, hes, ht⟩ := h.trace
  obtain ⟨fs, hfs, hu⟩ := k.trace
  exact ⟨k.busIdle ∘ h.busIdle, k.memOk ∘ h.memOk, k.cfg.trans h.cfg, es ++ fs, traceOk_append hes hfs, by
    rw [hu, ht, List.append_assoc]⟩

/-- A move with no bracket: bus, memories and parameters as they were. -/
theorem Continues.of_same {s t : State} (es : List Event) (hc : t.csN = s.csN) (ho : t.ownsBus = s.ownsBus)
    (hr : t.regs = s.regs) (hb : t.buffer = s.buffer) (hp : t.cfg = s.cfg) (ht : t.trace = s.trace ++ es)
    (hes : traceOk es = true) : Continues s t where
  busIdle h := by simpa [State.busIdle, hc, ho] using h
  memOk h := State.memOk_of h (.inl hr) (.inl hb)
  cfg := hp
  trace := ⟨es, hes, ht⟩

theorem Continues.inv {s t : State} (h : Continues s t) (hs : s.inv = true) (hl : t.labelOk = true) : t.inv = true := by
  obtain ⟨hbus, -, hmem, htrace⟩ := s.inv_iff.1 hs
  obtain ⟨es, hes, ht⟩ := h.trace
  exact t.inv_iff.2 ⟨h.busIdle hbus, hl, h.memOk hmem, ht ▸ traceOk_append htrace hes⟩

/-! Brackets -/

theorem continues_wrote (a : Addr) (v : Byte) (s : State) : Continues s (s.wrote a v) where
  busIdle _ := rfl
  memOk h := State.memOk_of h (.inr ⟨a, v, rfl⟩) (.inl rfl)
  cfg := rfl
  trace := ⟨_, traceOk_writeEvents a v s, rfl⟩

theorem continues_didRead (a : Addr) (d : Byte) (s : State) : Continues s (s.didRead a d) where
  busIdle _ := rfl
  memOk h := State.memOk_of h (.inl rfl) (.inl rfl)
  cfg := rfl
  trace := ⟨_, traceOk_readEvents a d s, rfl⟩

theorem sentBuffer_regs (n : Nat) (s : State) : (s.sentBuffer n).regs = s.regs ∨
    ∃ (a : Addr) (v : Byte), (s.sentBuffer n).regs = s.regs.write a.toNat v := by
  cases n with
  | zero => exact .inl rfl
  | succ n => exact .inr ⟨s.cfg.addrFifo, s.bufByte n, rfl⟩

theorem continues_sentBuffer (n : Nat) (s : State) : Continues s (s.sentBuffer n) where
  busIdle _ := rfl
  memOk h := State.memOk_of h (sentBuffer_regs n s) (.inl rfl)
  cfg := rfl
  trace := ⟨_, traceOk_fifoEvents n s, rfl⟩

theorem continues_sentBurst (a : Addr) (data : List Byte) (s : State) : Continues s (s.sentBurst a data) where
  busIdle _ := rfl
  memOk h := State.memOk_of h ((burstRegs_cases a data s.regs).imp_right fun ⟨v, hv⟩ => ⟨a, v, hv⟩) (.inl rfl)
  cfg := rfl
  trace := ⟨_, traceOk_burstEvents a data s, rfl⟩

theorem continues_microEffect (i : Instr) (s : State) : Continues s (microEffect i s) := by
  cases i with
  | wreg a v => exact continues_wrote a v s
  | rreg a => exact continues_didRead a _ s
  | fifowr n => exact continues_sentBuffer _ s
  | setmode m =>
    exact (continues_wrote _ _ s).trans (.of_same [] rfl rfl rfl rfl rfl (List.append_nil _).symm rfl)
  | clrfifo => exact continues_wrote _ _ s
  | rflag f => exact continues_didRead _ _ s
  | w | r | bw | init | poll | tx | reserved => exact .of_same [] rfl rfl rfl rfl rfl (List.append_nil _).symm rfl

/-! What a micro-operation leaves of the master -/

section
variable (i : Instr) (s : State)

@[simp] theorem microEffect_cmd : (microEffect i s).cmd = s.cmd := by cases i <;> rfl
@[simp] theorem microEffect_svSync : (microEffect i s).svSync = s.svSync := by cases i <;> rfl
@[simp] theorem microEffect_svPlen : (microEffect i s).svPlen = s.svPlen := by cases i <;> rfl
@[simp] theorem microEffect_syncLen : (microEffect i s).syncLen = s.syncLen := by cases i <;> rfl
@[simp] theorem microEffect_suppress : (microEffect i s).suppress = s.suppress := by cases i <;> rfl
@[simp] theorem microEffect_cap : (microEffect i s).cap = s.cap := by cases i <;> rfl
@[simp] theorem microEffect_gConfigured : (microEffect i s).gConfigured = s.gConfigured := by cases i <;> rfl

end

@[simp] theorem microEffect_setmode_gMode (m : Mode) (s : State) : (microEffect (.setmode m) s).gMode = .known m := rfl

@[simp] theorem microEffect_gMode {i : Instr} (s : State) (h : ∀ m, i ≠ .setmode m) :
    (microEffect i s).gMode = s.gMode := by
  cases i with
  | setmode m => exact absurd rfl (h m)
  | _ => rfl

@[simp] theorem microEffect_idx {i : Instr} (s : State) (h : ∀ n, i ≠ .fifowr n) :
    (microEffect i s).idx = s.idx := by
  cases i with
  | fifowr n => exact absurd rfl (h n)
  | _ => rfl

@[simp] theorem microEffect_rreg_rxd (a : Addr) (s : State) : (microEffect (.rreg a) s).rxd = some (s.answerAt 1) := rfl

/-! What follows a micro-operation -/

/-- The labels at which a command can end: I5 (R155), POLL's (R167, R170) and T7m (R190). -/
def Label.ends : Label → Bool
  | .i5 | .p1 | .p2 | .p3 | .t7m => true
  | _ => false

/-- What `advance` at label `l` does to a state, whichever label follows: the command goes on, or it ends at a label where
one can. -/
structure Followed (l : Label) (u t : State) : Prop where
  continues : Continues u t
  gMode : t.gMode = u.gMode
  gConfigured : l ≠ .i5 → t.gConfigured = u.gConfigured
  next : (t.seq ≠ .idle ∧ t.cmd = u.cmd) ∨ (t.seq = .idle ∧ t.cmd = .none ∧ l.ends = true)

theorem Followed.goto (l : Label) {l' : Label} (u : State) (h : l' ≠ .idle) : Followed l u (u.goto l') :=
  ⟨.of_same [] rfl rfl rfl rfl rfl (by simp) rfl, rfl, fun _ => rfl, .inl ⟨h, rfl⟩⟩

theorem Followed.gotoI2 (l : Label) (k : Nat) (u : State) : Followed l u (u.gotoI2 k) := by
  unfold State.gotoI2
  split
  · exact ⟨.of_same [] rfl rfl rfl rfl rfl (by simp) rfl, rfl, fun _ => rfl, .inl ⟨by simp, rfl⟩⟩
  · exact .goto l u (by simp)

theorem Followed.gotoI3v (l : Label) (k : Nat) (u : State) : Followed l u (u.gotoI3v k) := by
  unfold State.gotoI3v
  split
  · split
    · exact ⟨.of_same [] rfl rfl rfl rfl rfl (by simp) rfl, rfl, fun _ => rfl, .inl ⟨by simp, rfl⟩⟩
    · exact .goto l u (by simp)
  · exact .goto l u (by simp)

theorem Followed.finish {l : Label} (result : Option (Bool × Byte)) (u : State) (h : l.ends = true) :
    Followed l u (u.finish result) :=
  ⟨.of_same [.done result] rfl rfl rfl rfl rfl rfl rfl, rfl, fun _ => rfl, .inr ⟨rfl, rfl, h⟩⟩

theorem Followed.finishInit (u : State) : Followed .i5 u u.finishInit :=
  ⟨.of_same [.done none] rfl rfl rfl rfl rfl rfl rfl, rfl, fun h => absurd rfl h, .inr ⟨rfl, rfl, rfl⟩⟩

theorem Followed.finishPoll {l : Label} (received : Bool) (n : Byte) (u : State) (h : l.ends = true) :
    Followed l u (u.finishPoll received n) :=
  ⟨.of_same [.done (some (received, n))] rfl rfl rfl rfl rfl rfl rfl, rfl, fun _ => rfl, .inr ⟨rfl, rfl, h⟩⟩

theorem Followed.pollLoop {l : Label} (u : State) (h : l.ends = true) : Followed l u u.pollLoop := by
  unfold State.pollLoop
  split
  · exact .finishPoll true u.idx u h
  · exact .goto l u (by simp)

theorem continues_bufWr (i : Nat) (b : Byte) (n : Byte) (u : State) : Continues u { u.bufWr i b with idx := n } :=
  ⟨id, fun h => State.memOk_of h (.inl rfl) (.inr ⟨i, b, rfl⟩), rfl, [.bufWr i b], rfl, rfl⟩

theorem Followed.storeByte (v : Byte) (u : State) : Followed .p3 u (u.storeByte v) := by
  have h : Followed .p3 _ (u.storeByte v) := .pollLoop { u.bufWr u.idx.toNat v with idx := u.idx + 1 } rfl
  exact ⟨(continues_bufWr _ v _ u).trans h.continues, h.gMode, h.gConfigured, h.next⟩

theorem advance_followed {l : Label} {u t : State} (hl : l ≠ .idle) (h : advance l u = .next t) : Followed l u t := by
  cases l with
  | idle => exact absurd rfl hl
  | i1w | i1w2 | i4 | t1m | t2w | t3w | t4 | t5m | t6m | t6w | t7w =>
    cases h
    exact .goto _ u (by simp)
  | i1r | t1c | t5p =>
    cases h
    exact .goto _ u (by repeat' split <;> simp)
  | i1r2 =>
    simp only [advance] at h
    split at h <;> cases h
    · exact .gotoI2 _ 0 u
    · exact .goto _ u (by simp)
  | i2 k => cases h; exact .gotoI2 _ _ u
  | i3c => cases h; exact .gotoI3v _ 0 u
  | i3v i => cases h; exact .gotoI3v _ _ u
  | i5 => cases h; exact .finishInit u
  | p1 =>
    simp only [advance] at h
    split at h <;> cases h
    · exact .pollLoop u rfl
    · exact .finishPoll false 0 u rfl
  | p2 =>
    simp only [advance] at h
    split at h <;> cases h
    · exact .goto _ u (by simp)
    · exact .finishPoll true u.idx u rfl
  | p3 =>
    simp only [advance] at h
    split at h <;> cases h
    exact .storeByte _ u
  | t2r | t3r =>
    cases h
    exact ⟨.of_same [] rfl rfl rfl rfl rfl (List.append_nil _).symm rfl, rfl, fun _ => rfl, .inl ⟨by simp, rfl⟩⟩
  | t7m => cases h; exact .finish none u rfl

end Sys2Proof.Machine

/-! What a step can do (`step_cases`): wait, start a command, run one micro-operation, or reset. -/

namespace Sys2Proof.Machine

/-! A move that starts nothing and runs no micro-operation -/

/-- The master waits, or the host acts beside it (a load, a raw frame): label, command and ghosts are as they were. -/
structure Quiet (s t : State) : Prop where
  continues : Continues s t
  labelOk : s.labelOk = true → t.labelOk = true
  seq : t.seq = s.seq
  cmd : t.cmd = s.cmd
  gMode : t.gMode = s.gMode
  gConfigured : t.gConfigured = s.gConfigured

theorem Quiet.refl (s : State) : Quiet s s :=
  ⟨.of_same [] rfl rfl rfl rfl rfl (List.append_nil _).symm rfl, id, rfl, rfl, rfl, rfl⟩

theorem Quiet.hold (s : State) : Quiet s s.hold :=
  ⟨.of_same [] rfl rfl rfl rfl rfl (List.append_nil _).symm rfl, id, rfl, rfl, rfl, rfl⟩

theorem labelOk_of_idle {t : State} (hs : t.seq = .idle) (hc : t.cmd = .none) : t.labelOk = true := by
  simp [State.labelOk, hs, hc]

theorem cmd_of_idle {s : State} (h : s.labelOk = true) (hs : s.seq = .idle) : s.cmd = .none := by
  simpa [State.labelOk, hs] using h

/-- In Idle only the command matters to the invariant of the label. -/
theorem Quiet.of_idle {s t : State} (hs : s.seq = .idle) (h : Continues s t) (hq : t.seq = s.seq) (hc : t.cmd = s.cmd)
    (hm : t.gMode = s.gMode) (hg : t.gConfigured = s.gConfigured) : Quiet s t :=
  ⟨h, fun hl => labelOk_of_idle (hq.trans hs) (hc.trans (cmd_of_idle hl hs)), hq, hc, hm, hg⟩

theorem Quiet.load {s : State} (data : List Byte) (hs : s.seq = .idle) : Quiet s (s.load data) :=
  .of_idle hs ⟨id, s.memOk_load data, rfl, [], rfl, by simp⟩ rfl rfl rfl rfl

/-- What a frame leaves on a granted bus (R81 to R83). -/
theorem exec_frame_cases {i : Instr} {s t : State} (hi : isFrame i = true) (hb : s.busHeld = false)
    (h : exec i s = .next t) :
    (∃ a v, t = s.wrote a v) ∨ (∃ a d, t = s.didRead a d) ∨ ∃ a data, t = s.sentBurst a data := by
  cases i with
  | w a v =>
    simp only [exec, execW, withBus_granted _ hb, State.writeFrame_eq] at h
    exact .inl ⟨a, v, by cases h; rfl⟩
  | r a d =>
    simp only [exec, execR, withBus_granted _ hb, State.readFrame_eq] at h
    exact .inr (.inl ⟨a, d, by cases h; rfl⟩)
  | bw a data =>
    simp only [exec, execBw, withBus_granted _ hb, State.burstFrame_eq] at h
    split at h
    · exact .inr (.inr ⟨a, data, by cases h; rfl⟩)
    · cases h
  | _ => cases hi

theorem Quiet.frame {i : Instr} {s t : State} (hs : s.seq = .idle) (hi : isFrame i = true) (hb : s.busHeld = false)
    (h : exec i s = .next t) : Quiet s t := by
  obtain ⟨a, v, rfl⟩ | ⟨a, d, rfl⟩ | ⟨a, data, rfl⟩ := exec_frame_cases hi hb h
  · exact .of_idle hs (continues_wrote a v s) rfl rfl rfl rfl
  · exact .of_idle hs (continues_didRead a d s) rfl rfl rfl rfl
  · exact .of_idle hs (continues_sentBurst a data s) rfl rfl rfl rfl

/-! The start of a command -/

/-- The state Start(INIT) leaves (R145): its operands latched. -/
def State.startedInit (len : Nat) (tol : Byte) (val : List Byte) (rxLen : Byte) (s : State) : State :=
  { s.accept (.init len tol val rxLen) .init .i1w with
    syncLen := BitVec.ofNat 4 len
    syncTol := tol
    syncVal := latchSync s.dropOperands.syncVal 0 val
    rxPlen := rxLen }

/-- The state Start(POLL) leaves (R165). -/
def State.startedPoll (cap : Byte) (s : State) : State := { s.accept (.poll cap) .poll .p1 with cap := cap, idx := 0 }

/-- The state Start(TX) leaves (R180). -/
def State.startedTx (len : Byte) (suppress : Bool) (s : State) : State :=
  { s.accept (.tx len suppress) .tx .t1m with txLen := len, suppress := suppress, svSync := none, svPlen := none }

theorem exec_init_idle {s : State} (hs : s.seq = .idle) {len : Nat} {val : List Byte} (h : initOk len val = true)
    (tol rxLen : Byte) : exec (.init len tol val rxLen) s = .next (s.startedInit len tol val rxLen) := by
  simp [exec, execInit, hs, h, State.startedInit]

theorem exec_poll_idle {s : State} (hs : s.seq = .idle) (cap : Byte) :
    exec (.poll cap) s = .next (s.startedPoll cap) := by
  simp [exec, execPoll, hs, State.startedPoll]

theorem exec_tx_idle {s : State} (hs : s.seq = .idle) (len : Byte) (suppress : Bool) :
    exec (.tx len suppress) s = .next (s.startedTx len suppress) := by
  simp [exec, execTx, hs, State.startedTx]

/-- Is an instruction a command's Start (level H, R90)? -/
def isStart : Instr → Bool
  | .init _ _ _ _ | .poll _ | .tx _ _ => true
  | _ => false

/-- A Start that is accepted was taken in Idle, and leaves the state of its command. -/
theorem exec_start_cases {i : Instr} {s t : State} (hi : isStart i = true) (h : exec i s = .next t) :
    s.seq = .idle ∧
    ((∃ len tol val rxLen, i = .init len tol val rxLen ∧ initOk len val = true ∧ t = s.startedInit len tol val rxLen) ∨
      (∃ cap, i = .poll cap ∧ t = s.startedPoll cap) ∨ ∃ len sup, i = .tx len sup ∧ t = s.startedTx len sup) := by
  cases i with
  | init len tol val rxLen =>
    simp only [exec, execInit] at h
    split at h
    · cases h
    · next hs =>
      split at h
      · next ho => exact ⟨not_not.1 hs, .inl ⟨len, tol, val, rxLen, rfl, ho, by cases h; rfl⟩⟩
      · cases h
  | poll cap =>
    simp only [exec, execPoll] at h
    split at h
    · cases h
    · next hs => exact ⟨not_not.1 hs, .inr (.inl ⟨cap, rfl, by cases h; rfl⟩)⟩
  | tx len sup =>
    simp only [exec, execTx] at h
    split at h
    · cases h
    · next hs => exact ⟨not_not.1 hs, .inr (.inr ⟨len, sup, rfl, by cases h; rfl⟩)⟩
  | _ => cases hi

/-- A command was started: taken in Idle, its first label's invariant met, both ghosts as they were. -/
structure Started (s t : State) : Prop where
  idle : s.seq = .idle
  continues : Continues s t
  labelOk : t.labelOk = true
  cmd : t.cmd = .init ∨ t.cmd = .poll ∨ t.cmd = .tx
  gMode : t.gMode = s.gMode
  gConfigured : t.gConfigured = s.gConfigured

theorem initOk_iff {len : Nat} {val : List Byte} : initOk len val = true ↔ 1 ≤ len ∧ len ≤ 8 ∧ val.length = len := by
  simp [initOk, and_assoc]

theorem toNat_latchedLength {len : Nat} (h : len ≤ 8) : (BitVec.ofNat 4 len).toNat = len := by
  rw [BitVec.toNat_ofNat]
  omega

theorem Started.of_exec {i : Instr} {s t : State} (hi : isStart i = true) (h : exec i s = .next t) : Started s t := by
  obtain ⟨hs, ⟨len, tol, val, rxLen, -, ho, rfl⟩ | ⟨cap, -, rfl⟩ | ⟨len, sup, -, rfl⟩⟩ := exec_start_cases hi h
  · obtain ⟨h1, h8, -⟩ := initOk_iff.1 ho
    have hl : (s.startedInit len tol val rxLen).labelOk = true := by
      simp [State.labelOk, State.startedInit, State.initLatched, toNat_latchedLength h8, h1, h8]
    exact ⟨hs, .of_same [_] rfl rfl rfl rfl rfl rfl rfl, hl, .inl rfl, rfl, rfl⟩
  · exact ⟨hs, .of_same [_] rfl rfl rfl rfl rfl rfl rfl, rfl, .inr (.inl rfl), rfl, rfl⟩
  · exact ⟨hs, .of_same [_] rfl rfl rfl rfl rfl rfl rfl, rfl, .inr (.inr rfl), rfl, rfl⟩

/-! One micro-operation of the command in progress -/

/-- The step ran the micro-operation `i` of the label and then the label's rule (R27, R89, R118). -/
def RanMicro (i : Instr) (s t : State) : Prop :=
  s.seq ≠ .idle ∧ microOp s.seq s = .ok i ∧ advance s.seq (microEffect i s) = .next t

/-! A reset -/

/-- The step was the reset event, between transactions or inside one: R45's values, after whole brackets. -/
structure WasReset (s t : State) : Prop where
  continues : Continues s t
  master : t.masterReset

theorem masterReset_resetMaster (s : State) : s.resetMaster.masterReset := by simp [State.masterReset]

theorem continues_resetMaster (s : State) : Continues s s.resetMaster :=
  ⟨fun _ => rfl, id, rfl, [], rfl, (List.append_nil _).symm⟩

/-- The exchanges of a frame that will be cut stand inside its bracket and touch neither buffer nor parameters. -/
theorem foldl_exchange_selected (xs : List (Option Nat × Byte)) (s : State) :
    (xs.foldl State.exchange s).buffer = s.buffer ∧ (xs.foldl State.exchange s).cfg = s.cfg ∧
    ∃ es, (∀ e ∈ es, BusPhase.after .selected e = some .selected) ∧
      (xs.foldl State.exchange s).trace = s.trace ++ es := by
  induction xs generalizing s with
  | nil => exact ⟨rfl, rfl, [], by simp, by simp⟩
  | cons x xs ih =>
    obtain ⟨hb, hp, es, hes, ht⟩ := ih (s.exchange x)
    rw [List.foldl_cons]
    obtain ⟨_ | j, b⟩ := x
    · exact ⟨hb, hp, .x b s.answer :: es, List.forall_mem_cons.2 ⟨rfl, hes⟩, by rw [ht]; simp [State.exchange]⟩
    · exact ⟨hb, hp, .bufRd j b :: .x b (s.emit [.bufRd j b]).answer :: es,
        List.forall_mem_cons.2 ⟨rfl, List.forall_mem_cons.2 ⟨rfl, hes⟩⟩, by rw [ht]; simp [State.exchange]⟩

theorem continues_cutBracket (n : Nat) (i : Instr) (s : State) : Continues s (s.cutBracket n i) := by
  obtain ⟨hb, hp, es, hes, ht⟩ := foldl_exchange_selected ((s.exchanges i).take n) s.openBracket
  refine ⟨fun _ => rfl, fun h => ?_, hp, _, traceOk_bracket hes, ?_⟩
  · rw [State.memOk_iff] at h ⊢
    obtain ⟨-, hbuf, -⟩ := h
    exact ⟨rfl, hb ▸ hbuf, by simp [State.cutBracket]⟩
  · simp [State.cutBracket, ht]

theorem resetInside_wasReset (n : Nat) (s : State) : WasReset s (s.resetInside n) := by
  unfold State.resetInside
  split
  · exact ⟨continues_resetMaster s, masterReset_resetMaster s⟩
  · split
    · exact ⟨(continues_cutBracket n _ s).trans (continues_resetMaster _), masterReset_resetMaster _⟩
    · exact ⟨continues_resetMaster s, masterReset_resetMaster s⟩

/-! The step for each move of the host -/

theorem masterStep_idle {s : State} (hs : s.seq = .idle) : masterStep s = .next s := by simp [masterStep, hs]

theorem masterStep_busy {s : State} (hs : s.seq ≠ .idle) : masterStep s = seqStep s := by simp [masterStep, hs]

theorem step_no_move {s : State} (h : s.host = []) : step s = masterStep s := by simp [step, hostStep, h]

theorem step_issue {s : State} {w : PortWord} {rest : List HostMove} (h : s.host = .issue w :: rest) :
    step s = issueWord w rest s := by
  simp [step, hostStep, h]

theorem step_await {s : State} {rest : List HostMove} (h : s.host = .await :: rest) :
    step s = if s.seq = .idle then .next { s with host := rest } else masterStep s := by
  simp [step, hostStep, h]

theorem step_pause {s : State} {rest : List HostMove} (h : s.host = .pause :: rest) :
    step s = masterStep { s with host := rest } := by
  simp [step, hostStep, h]

theorem step_load {s : State} {data : List Byte} {rest : List HostMove} (h : s.host = .load data :: rest) :
    step s = if s.seq = .idle then .next (State.load data { s with host := rest }) else masterStep s := by
  simp [step, hostStep, h]

theorem step_reset {s : State} {rest : List HostMove} (h : s.host = .reset :: rest) :
    step s = .next (State.resetMaster { s with host := rest }) := by
  simp [step, hostStep, h]

theorem step_resetIn {s : State} {n : Nat} {rest : List HostMove} (h : s.host = .resetIn n :: rest) :
    step s = .next (State.resetInside n { s with host := rest }) := by
  simp [step, hostStep, h]

/-! What a step can do -/

theorem masterStep_cases {s t : State} (h : masterStep s = .next t) : Quiet s t ∨ ∃ i, RanMicro i s t := by
  unfold masterStep at h
  split at h
  · cases h; exact .inl (.refl s)
  · next hs =>
    cases hb : s.busHeld with
    | true => rw [seqStep_held hb] at h; cases h; exact .inl (.hold s)
    | false =>
      rw [seqStep_granted hb] at h
      split at h
      · next i hi => exact .inr ⟨i, hs, hi, h⟩
      · cases h

/-- A word decodes to a frame, to a command's Start, or to code 00 (R91, R97). -/
theorem decode_level {w : PortWord} {i : Instr} (h : decode w = .ok i) :
    isFrame i = true ∨ isStart i = true ∨ i = .reserved := by
  cases w with
  | command bytes =>
    refine .inr ?_
    cases bytes with
    | nil => cases h
    | cons code ops =>
      simp only [decode, decodeCommand, decodeInit, decodePoll, decodeTx] at h
      repeat' split at h
      all_goals cases h <;> simp [isStart]
  | bracket bytes =>
    refine .inl ?_
    cases bytes with
    | nil => cases h
    | cons b bs =>
      simp only [decode, decodeBracket] at h
      repeat' split at h
      all_goals cases h <;> rfl

theorem issueWord_cases {w : PortWord} {rest : List HostMove} {s t : State} (h : issueWord w rest s = .next t) :
    Quiet s t ∨ Quiet { s with host := rest } t ∨ Started { s with host := rest } t := by
  unfold issueWord at h
  split at h
  · cases h
  · next i hi =>
    split at h
    · next hf =>
      split at h
      · cases h
      · next hs =>
        split at h
        · cases h; exact .inl (.hold s)
        · next hb => exact .inr (.inl (.frame (not_not.1 hs) hf (Bool.not_eq_true _ ▸ hb) h))
    · next hf =>
      obtain hf' | hst | rfl := decode_level hi
      · exact absurd hf' hf
      · exact .inr (.inr (.of_exec hst h))
      · cases h

/-- What a step can do, the host's queue `rest` after it: wait or let the host act, start a command, run one
micro-operation, or reset. -/
theorem step_cases {s t : State} (h : step s = .next t) :
    ∃ rest, Quiet { s with host := rest } t ∨ Started { s with host := rest } t ∨
      (∃ i, RanMicro i { s with host := rest } t) ∨ (s.resetNext = true ∧ WasReset { s with host := rest } t) := by
  have hmaster (h : masterStep s = .next t) : Quiet s t ∨ Started s t ∨ (∃ i, RanMicro i s t) ∨
      (s.resetNext = true ∧ WasReset s t) := (masterStep_cases h).imp_right fun h => .inr (.inl h)
  cases hh : s.host with
  | nil =>
    rw [step_no_move hh] at h
    exact ⟨s.host, hmaster h⟩
  | cons move rest =>
    cases move with
    | issue w =>
      rw [step_issue hh] at h
      obtain h | h | h := issueWord_cases h
      · exact ⟨s.host, .inl h⟩
      · exact ⟨rest, .inl h⟩
      · exact ⟨rest, .inr (.inl h)⟩
    | await =>
      rw [step_await hh] at h
      split at h
      · cases h; exact ⟨rest, .inl (.refl _)⟩
      · exact ⟨s.host, hmaster h⟩
    | pause =>
      rw [step_pause hh] at h
      exact ⟨rest, (masterStep_cases h).imp_right fun h => .inr (.inl h)⟩
    | load data =>
      rw [step_load hh] at h
      split at h
      · next hs => cases h; exact ⟨rest, .inl (.load data hs)⟩
      · exact ⟨s.host, hmaster h⟩
    | reset =>
      rw [step_reset hh] at h
      cases h
      have hr : s.resetNext = true := by simp [State.resetNext, hh]
      exact ⟨rest, .inr (.inr (.inr ⟨hr, continues_resetMaster _, masterReset_resetMaster _⟩))⟩
    | resetIn n =>
      rw [step_resetIn hh] at h
      cases h
      have hr : s.resetNext = true := by simp [State.resetNext, hh]
      exact ⟨rest, .inr (.inr (.inr ⟨hr, resetInside_wasReset n _⟩))⟩

end Sys2Proof.Machine

/-! Every step keeps the invariant (O47) and the parameters (O49). -/

namespace Sys2Proof.Machine

/-! The invariant of the label -/

/-- The entry invariant of CFG's labels: an index below the list's end, or I3c past it. -/
theorem labelOk_gotoI2 (k : Nat) {u : State} (hc : u.cmd = .init) (hl : u.initLatched = true) :
    (u.gotoI2 k).labelOk = true := by
  unfold State.gotoI2
  split
  · next hk =>
    change (u.cmd == .init && u.initLatched && decide (k < u.cfgLength)) = true
    simp [hc, hl, hk]
  · change (u.cmd == .init && u.initLatched) = true
    simp [hc, hl]

theorem labelOk_gotoI3v (k : Nat) {u : State} (hc : u.cmd = .init) (hl : u.initLatched = true) :
    (u.gotoI3v k).labelOk = true := by
  have h4 : State.labelOk { u with seq := .i4 } = true := by
    change (u.cmd == .init && u.initLatched) = true
    simp [hc, hl]
  unfold State.gotoI3v
  split
  · split
    · next hk =>
      change (u.cmd == .init && u.initLatched && decide (k < u.syncLen.toNat)) = true
      simp [hc, hl, hk]
    · exact h4
  · exact h4

theorem labelOk_finishPoll (received : Bool) (n : Byte) (u : State) : (u.finishPoll received n).labelOk = true :=
  labelOk_of_idle rfl rfl

theorem labelOk_pollLoop {u : State} (hc : u.cmd = .poll) : u.pollLoop.labelOk = true := by
  unfold State.pollLoop
  split
  · exact labelOk_finishPoll true _ u
  · next h =>
    change (u.cmd == .poll && decide (u.idx < u.cap)) = true
    simp [hc, BitVec.not_le.1 h]

@[simp] theorem initLatched_goto (l : Label) (u : State) : (u.goto l).initLatched = u.initLatched := rfl

/-- INIT's labels lead only to labels of INIT, whose operands stay latched (R146). -/
theorem labelOk_ranMicro_init {i : Instr} {s t : State} (hl : s.labelOk = true) (h : RanMicro i s t) (hc : s.cmd = .init) :
    t.labelOk = true := by
  obtain ⟨hs, hi, ha⟩ := h
  have hcu : (microEffect i s).cmd = .init := by simp [hc]
  have hlu (hq : s.initLatched = true) : (microEffect i s).initLatched = true := by simpa [State.initLatched] using hq
  -- the labels of other commands contradict `hl`
  cases hq : s.seq <;> rw [hq] at hi ha <;> simp [State.labelOk, hq, hc] at hl
  case i1w | i1w2 | i4 =>
    cases ha
    simpa [State.labelOk, hc] using hlu hl
  case i1r =>
    cases ha
    split <;> simpa [State.labelOk, hc] using hlu hl
  case i1r2 =>
    simp only [advance] at ha
    split at ha <;> cases ha
    · exact labelOk_gotoI2 0 hcu (hlu hl)
    · simpa [State.labelOk, hc] using hlu hl
  case i2 k => cases ha; exact labelOk_gotoI2 _ hcu (hlu hl.1)
  case i3c => cases ha; exact labelOk_gotoI3v 0 hcu (hlu hl)
  case i3v j => cases ha; exact labelOk_gotoI3v _ hcu (hlu hl.1)
  case i5 => cases ha; exact labelOk_of_idle rfl rfl

/-- POLL's labels lead to POLL's labels with the count below the capacity, or end the command (R168 to R170). -/
theorem labelOk_ranMicro_poll {i : Instr} {s t : State} (hl : s.labelOk = true) (h : RanMicro i s t) (hc : s.cmd = .poll) :
    t.labelOk = true := by
  obtain ⟨hs, hi, ha⟩ := h
  -- the labels of other commands contradict `hl`
  cases hq : s.seq <;> rw [hq] at hi ha <;> simp [State.labelOk, hq, hc] at hl
  case p1 =>
    simp only [advance] at ha
    split at ha <;> cases ha
    · exact labelOk_pollLoop (by simp [hc])
    · exact labelOk_finishPoll _ _ _
  case p2 =>
    simp only [advance] at ha
    split at ha <;> cases ha
    · cases hi
      simpa [State.labelOk, hc] using hl
    · exact labelOk_finishPoll _ _ _
  case p3 =>
    simp only [advance] at ha
    split at ha <;> cases ha
    exact labelOk_pollLoop (by simp [hc])

/-- TX's labels lead to TX's labels in the mode of R134 with the saves made, or end the command (R181). -/
theorem labelOk_ranMicro_tx {i : Instr} {s t : State} (hl : s.labelOk = true) (h : RanMicro i s t) (hc : s.cmd = .tx) :
    t.labelOk = true := by
  obtain ⟨hs, hi, ha⟩ := h
  -- the labels of other commands contradict `hl`
  cases hq : s.seq <;> rw [hq] at hi ha <;> simp [State.labelOk, hq, hc, State.inMode, State.syncSaved] at hl
  case t1c =>
    cases hi
    cases ha
    cases hsup : s.suppress <;> simp [State.labelOk, State.inMode, State.syncSaved, hc, hl, hsup]
  case t1m | t2r | t2w | t3r | t3w | t4 | t5m | t6m =>
    cases hi
    cases ha
    simp [State.labelOk, State.inMode, State.syncSaved, hc, hl]
  case t5p =>
    cases hi
    cases ha
    split
    · cases hsup : s.suppress <;> simp [hsup] at hl <;> simp [State.labelOk, State.inMode, hc, hl, hsup]
    · simp [State.labelOk, State.inMode, State.syncSaved, hc, hl]
  case t6w | t7w =>
    simp only [microOp, microRestore] at hi
    split at hi <;> cases hi
    cases ha
    simp [State.labelOk, State.inMode, hc, hl]
  case t7m => cases ha; exact labelOk_of_idle rfl rfl

theorem cmd_of_busy {s : State} (hl : s.labelOk = true) (hs : s.seq ≠ .idle) :
    s.cmd = .init ∨ s.cmd = .poll ∨ s.cmd = .tx := by
  cases hq : s.seq with
  | idle => exact absurd hq hs
  | _ => simp_all [State.labelOk]

theorem labelOk_ranMicro {i : Instr} {s t : State} (hl : s.labelOk = true) (h : RanMicro i s t) : t.labelOk = true := by
  obtain hc | hc | hc := cmd_of_busy hl h.1
  · exact labelOk_ranMicro_init hl h hc
  · exact labelOk_ranMicro_poll hl h hc
  · exact labelOk_ranMicro_tx hl h hc

theorem labelOk_masterReset {t : State} (h : t.masterReset) : t.labelOk = true := by
  obtain ⟨-, -, hc, hs, -⟩ := h
  exact labelOk_of_idle hs hc

theorem RanMicro.followed {i : Instr} {s t : State} (h : RanMicro i s t) : Followed s.seq (microEffect i s) t :=
  advance_followed h.1 h.2.2

theorem RanMicro.continues {i : Instr} {s t : State} (h : RanMicro i s t) : Continues s t :=
  (continues_microEffect i s).trans h.followed.continues

theorem continues_step {s t : State} (h : step s = .next t) : Continues s t := by
  obtain ⟨rest, h⟩ := step_cases h
  have hk : Continues s { s with host := rest } := .of_same [] rfl rfl rfl rfl rfl (List.append_nil _).symm rfl
  obtain hq | hst | ⟨i, hm⟩ | ⟨-, hr⟩ := h
  · exact hk.trans hq.continues
  · exact hk.trans hst.continues
  · exact hk.trans hm.continues
  · exact hk.trans hr.continues

theorem labelOk_step {s t : State} (hl : s.labelOk = true) (h : step s = .next t) : t.labelOk = true := by
  obtain ⟨rest, hq | hst | ⟨i, hm⟩ | ⟨-, hr⟩⟩ := step_cases h
  · exact hq.labelOk hl
  · exact hst.labelOk
  · exact labelOk_ranMicro (s := { s with host := rest }) hl hm
  · exact labelOk_masterReset hr.master

theorem inv_step {s t : State} (hs : s.inv = true) (h : step s = .next t) : t.inv = true :=
  (continues_step h).inv hs (labelOk_step (s.inv_iff.1 hs).2.1 h)

/-- Settles O47: the label's part by `labelOk_step`, the rest by `continues_step`. -/
theorem everyStepKeepsTheInvariant : Obligations.EveryStepKeepsTheInvariant := fun _ _ => inv_step

/-- Settles O49: the parameters' part of `continues_step`. -/
theorem parametersNeverChange : Obligations.ParametersNeverChange := fun _ _ h => (continues_step h).cfg

end Sys2Proof.Machine

/-! Which steps fault (O48), and how the ghosts change (O51, O52). -/

namespace Sys2Proof.Machine

/-! Faults -/

theorem exec_fault {i : Instr} {s : State} {f : Fault} (h : exec i s = .fault f) : f = .cmdWhileBusy ∧ s.seq ≠ .idle := by
  have hbus (g : State → State) : withBus s g ≠ .fault f := by
    obtain ⟨-, h⟩ | ⟨-, h⟩ := withBus_cases s g <;> simp [h]
  cases i with
  | w | r | wreg | rreg | fifowr | setmode | clrfifo | rflag => exact absurd h (hbus _)
  | bw a data =>
    simp only [exec, execBw] at h
    split at h
    · exact absurd h (hbus _)
    · cases h
  | init len tol val rxLen =>
    simp only [exec, execInit] at h
    repeat' split at h
    all_goals cases h
    exact ⟨rfl, ‹_›⟩
  | poll cap =>
    simp only [exec, execPoll] at h
    split at h <;> cases h
    exact ⟨rfl, ‹_›⟩
  | tx len sup =>
    simp only [exec, execTx] at h
    split at h <;> cases h
    exact ⟨rfl, ‹_›⟩
  | reserved => cases h

theorem microOp_i2 {s : State} {k : Nat} {a : Addr} {v : Byte} (h : (cfgList s.cfg s.rxPlen)[k]? = some (a, v)) :
    microOp (.i2 k) s = .ok (.wreg a v) := by
  simp [microOp, microI2, h]

theorem microOp_i3v {s : State} {j : Fin 8} (h : j.val < s.syncLen.toNat) :
    microOp (.i3v j) s = .ok (.wreg (syncValAddr s.cfg j.val) s.syncVal[j]) := by
  simp [microOp, microI3v, h]

/-- R25, log 18: under the invariant a busy master's label has its micro-operation. -/
theorem microOp_ok {s : State} (hl : s.labelOk = true) (hs : s.seq ≠ .idle) : ∃ i, microOp s.seq s = .ok i := by
  cases hq : s.seq with
  | idle => exact absurd hq hs
  | i2 k =>
    simp only [State.labelOk, hq, Bool.and_eq_true, decide_eq_true_eq] at hl
    obtain ⟨-, hk⟩ := hl
    exact ⟨_, microOp_i2 (List.getElem?_eq_getElem hk)⟩
  | i3v j =>
    simp only [State.labelOk, hq, Bool.and_eq_true, decide_eq_true_eq] at hl
    obtain ⟨-, hj⟩ := hl
    exact ⟨_, microOp_i3v hj⟩
  | t6w =>
    simp only [State.labelOk, hq, Bool.and_eq_true] at hl
    obtain ⟨⟨-, hsv⟩, -⟩ := hl
    obtain ⟨v, hv⟩ := Option.isSome_iff_exists.1 hsv
    exact ⟨_, by simp [microOp, microRestore, saved, hv]; rfl⟩
  | t7w =>
    simp only [State.labelOk, hq, Bool.and_eq_true] at hl
    obtain ⟨-, hsv⟩ := hl
    obtain ⟨v, hv⟩ := Option.isSome_iff_exists.1 hsv
    exact ⟨_, by simp [microOp, microRestore, saved, hv]; rfl⟩
  | _ => exact ⟨_, rfl⟩

/-- The one rule that can fault, P3's, finds the byte its read has just latched. -/
theorem advance_microEffect {i : Instr} {s : State} (hi : microOp s.seq s = .ok i) :
    ∃ t, advance s.seq (microEffect i s) = .next t := by
  cases hq : s.seq with
  | p3 =>
    rw [hq] at hi
    cases hi
    exact ⟨_, rfl⟩
  | _ => exact ⟨_, rfl⟩

theorem masterStep_next {s : State} (hl : s.labelOk = true) : ∃ t, masterStep s = .next t := by
  unfold masterStep
  split
  · exact ⟨s, rfl⟩
  · next hs =>
    cases hb : s.busHeld with
    | true => exact ⟨_, seqStep_held hb⟩
    | false =>
      obtain ⟨i, hi⟩ := microOp_ok hl hs
      obtain ⟨t, ht⟩ := advance_microEffect hi
      exact ⟨t, by simp only [seqStep_granted hb, hi, ht]⟩

theorem masterStep_no_fault {s : State} {f : Fault} (hl : s.labelOk = true) : masterStep s ≠ .fault f := by
  obtain ⟨t, ht⟩ := masterStep_next hl
  simp [ht]

theorem issueWord_fault {w : PortWord} {rest : List HostMove} {s : State} {f : Fault}
    (h : issueWord w rest s = .fault f) : f = .cmdWhileBusy ∧ s.seq ≠ .idle := by
  unfold issueWord at h
  split at h
  · cases h
  · split at h
    · split at h
      · cases h
        exact ⟨rfl, ‹_›⟩
      · split at h
        · cases h
        · exact exec_fault (s := { s with host := rest }) h
    · exact exec_fault (s := { s with host := rest }) h

/-- Settles O48: the master's own step never faults under the invariant, so only an issued word can. -/
theorem onlyAnOverlappingWordFaults : Obligations.OnlyAnOverlappingWordFaults := by
  intro s f hs h
  have hl : s.labelOk = true := (s.inv_iff.1 hs).2.1
  cases hh : s.host with
  | nil =>
    rw [step_no_move hh] at h
    exact absurd h (masterStep_no_fault hl)
  | cons move rest =>
    cases move with
    | issue w =>
      rw [step_issue hh] at h
      obtain ⟨hf, hb⟩ := issueWord_fault h
      exact ⟨hf, hb, w, rest, rfl⟩
    | await =>
      rw [step_await hh] at h
      split at h
      · cases h
      · exact absurd h (masterStep_no_fault hl)
    | pause =>
      rw [step_pause hh] at h
      exact absurd h (masterStep_no_fault (s := { s with host := rest }) hl)
    | load data =>
      rw [step_load hh] at h
      split at h
      · cases h
      · exact absurd h (masterStep_no_fault hl)
    | reset => rw [step_reset hh] at h; cases h
    | resetIn n => rw [step_resetIn hh] at h; cases h

/-! The ghosts -/

theorem gConfigured_step {s t : State} (h : step s = .next t) :
    t.gConfigured = s.gConfigured ∨ t.gConfigured = false ∨ s.seq = .i5 := by
  obtain ⟨rest, hq | hst | ⟨i, hm⟩ | ⟨-, hr⟩⟩ := step_cases h
  · exact .inl hq.gConfigured
  · exact .inl hst.gConfigured
  · by_cases h5 : s.seq = .i5
    · exact .inr (.inr h5)
    · exact .inl ((hm.followed.gConfigured h5).trans (microEffect_gConfigured _ _))
  · obtain ⟨-, -, -, -, -, -, -, -, -, -, -, hg⟩ := hr.master
    exact .inr (.inl hg)

/-- Settles O52: elsewhere a step keeps g.configured or a reset clears it. -/
theorem configuredOnlyByInit : Obligations.ConfiguredOnlyByInit := by
  intro s t h hs ht
  obtain hg | hg | h5 := gConfigured_step h
  · rw [hg, hs] at ht; cases ht
  · rw [hg] at ht; cases ht
  · exact h5

/-- POLL selects no mode (R135). -/
theorem gMode_ranMicro_poll {i : Instr} {s t : State} (hl : s.labelOk = true) (h : RanMicro i s t) (hc : s.cmd = .poll) :
    t.gMode = s.gMode := by
  rw [h.followed.gMode]
  obtain ⟨hs, hi, -⟩ := h
  cases hq : s.seq <;> rw [hq] at hi <;> simp [State.labelOk, hq, hc] at hl
  case p1 | p2 | p3 => cases hi; rfl

/-- A command that ends is POLL, or ends in the mode its last label selects (R136, R155, R190). -/
theorem gMode_ranMicro_end {i : Instr} {s t : State} (hl : s.labelOk = true) (h : RanMicro i s t) (ht : t.seq = .idle)
    (hc : s.cmd ≠ .poll) : t.gMode = .known .receive := by
  obtain ⟨hne, -⟩ | ⟨-, -, he⟩ := h.followed.next
  · exact absurd ht hne
  · rw [h.followed.gMode]
    obtain ⟨hs, hi, -⟩ := h
    cases hq : s.seq <;> rw [hq] at hi he <;> cases he <;> simp [State.labelOk, hq, hc] at hl
    all_goals cases hi; rfl

theorem resting_iff (s : State) :
    s.resting = true ↔ s.gConfigured = false ∨ s.cmd = .init ∨ s.cmd = .tx ∨ s.gMode = .known .receive := by
  simp [State.resting, State.inMode, or_assoc]

theorem resting_ranMicro {i : Instr} {s t : State} (hl : s.labelOk = true) (hr : s.resting = true) (h : RanMicro i s t) :
    t.resting = true := by
  rw [resting_iff] at hr ⊢
  by_cases hc : s.cmd = .poll
  · have h5 : s.seq ≠ .i5 := fun h5 => by simp [State.labelOk, h5, hc] at hl
    rw [gMode_ranMicro_poll hl h hc, h.followed.gConfigured h5, microEffect_gConfigured]
    simp only [hc, reduceCtorEq, false_or] at hr
    exact hr.imp_right fun hm => .inr (.inr hm)
  · obtain ⟨-, hcmd⟩ | ⟨hidle, -, -⟩ := h.followed.next
    · rw [hcmd, microEffect_cmd]
      obtain hb | hb | hb := cmd_of_busy hl h.1
      · exact .inr (.inl hb)
      · exact absurd hb hc
      · exact .inr (.inr (.inl hb))
    · exact .inr (.inr (.inr (gMode_ranMicro_end hl h hidle hc)))

theorem resting_started {s t : State} (hl : s.labelOk = true) (hr : s.resting = true) (h : Started s t) :
    t.resting = true := by
  rw [resting_iff] at hr ⊢
  simp only [cmd_of_idle hl h.idle, reduceCtorEq, false_or] at hr
  rw [h.gConfigured, h.gMode]
  exact hr.imp_right fun hm => .inr (.inr hm)

theorem resting_step {s t : State} (hs : s.inv = true) (hr : s.resting = true) (h : step s = .next t) :
    t.resting = true := by
  obtain ⟨-, hl, -, -⟩ := s.inv_iff.1 hs
  obtain ⟨rest, hq | hst | ⟨i, hm⟩ | ⟨-, hw⟩⟩ := step_cases h
  · rw [resting_iff] at hr ⊢
    rwa [hq.gConfigured, hq.cmd, hq.gMode]
  · exact resting_started (s := { s with host := rest }) hl hr hst
  · exact resting_ranMicro (s := { s with host := rest }) hl hr hm
  · obtain ⟨-, -, -, -, -, -, -, -, -, -, -, hg⟩ := hw.master
    exact (resting_iff t).2 (.inl hg)

/-- R136: Idle and configured, the master rests in Receive. -/
theorem gMode_of_resting {s : State} (hs : s.inv = true) (hr : s.resting = true) (hi : s.seq = .idle)
    (hg : s.gConfigured = true) : s.gMode = .known .receive := by
  obtain ⟨-, hl, -, -⟩ := s.inv_iff.1 hs
  simpa [resting_iff, cmd_of_idle hl hi, hg] using hr

/-- A predicate every step keeps holds at the end of every run (R240). -/
theorem run_keeps {P : State → Prop} (hstep : ∀ s t, P s → step s = .next t → P t) {n : Nat} {s t : State} (hs : P s)
    (h : run n s = .next t) : P t := by
  induction n generalizing s with
  | zero => cases h; exact hs
  | succ n ih =>
    rw [run_succ] at h
    split at h
    · next u hu => exact ih (hstep s u hs hu) h
    · cases h
    · cases h

/-- A step that ends a command other than POLL, not by a reset, leaves Receive. -/
theorem gMode_step_end {s t : State} (hs : s.inv = true) (h : step s = .next t) (hb : s.seq ≠ .idle) (ht : t.seq = .idle)
    (hc : s.cmd ≠ .poll) (hn : s.resetNext = false) : t.gMode = .known .receive := by
  obtain ⟨-, hl, -, -⟩ := s.inv_iff.1 hs
  obtain ⟨rest, hq | hst | ⟨i, hm⟩ | ⟨hreset, -⟩⟩ := step_cases h
  · exact absurd (hq.seq.symm.trans ht) hb
  · exact absurd hst.idle hb
  · exact gMode_ranMicro_end (s := { s with host := rest }) hl hm ht hc
  · rw [hn] at hreset; cases hreset

/-- Settles O51: the invariant and `State.resting` are kept together from reset on. -/
theorem commandsEndInReceive : Obligations.CommandsEndInReceive := by
  refine ⟨fun _ _ => gMode_step_end, fun _ _ => resting_step, fun _ => gMode_of_resting, ?_⟩
  intro n p answers grants after moves t h hi hg
  obtain ⟨hinv, hrest⟩ := run_keeps (P := fun s => s.inv = true ∧ s.resting = true)
    (fun s u hs hu => ⟨inv_step hs.1 hu, resting_step hs.1 hs.2 hu⟩) ⟨by exact reset_inv, by rfl⟩ h
  exact gMode_of_resting hinv hrest hi hg

end Sys2Proof.Machine

/-! The label tables step by step: what a label's step leaves when the master runs alone. -/

namespace Sys2Proof.Machine

/-- Settles O7: `seqStep` on a granted bus. -/
theorem stepRunsTheLabelsMicroOperation : Obligations.StepRunsTheLabelsMicroOperation := by
  intro s t i hh hs hb hi he
  rw [step_no_move hh, masterStep_busy hs]
  simp [seqStep, hb, hi, he]

/-- Settles O11: the R frame's bracket in closed form, for either dummy byte. -/
theorem readTransaction : Obligations.ReadTransaction := by
  intro a s hb
  refine ⟨?_, fun d => ?_⟩
  · simp only [exec, execRreg, withBus_granted _ hb, State.readFrame_eq]
  · simp only [exec, execR, withBus_granted _ hb, State.readFrame_eq]

/-! Starts -/

/-- The operand's bytes stand in the cells from `i` on, the other cells as they were (R24). -/
theorem latchSync_getElem (val : List Byte) (i : Nat) (cells : Vector Byte 8) (j : Fin 8) :
    (latchSync cells i val)[j] = if i ≤ j.val then (val[j.val - i]?).getD cells[j] else cells[j] := by
  induction val generalizing i cells with
  | nil => simp [latchSync]
  | cons b bs ih =>
    have hset : (cells.setIfInBounds i b)[j] = if i = j.val then b else cells[j] := by
      simp only [Fin.getElem_fin, Vector.getElem_setIfInBounds]
    rw [latchSync, ih, hset]
    obtain hlt | rfl | hgt := Nat.lt_trichotomy i j.val
    · obtain ⟨k, hk⟩ := Nat.exists_eq_add_of_lt hlt
      have h1 : j.val - i = k + 1 := by omega
      have h2 : j.val - (i + 1) = k := by omega
      simp [hlt, hlt.le, hlt.ne, h1, h2]
    · simp
    · simp [hgt.not_ge, hgt.ne', Nat.not_le.2 (Nat.lt_succ_of_lt hgt)]

/-- Settles O17: the length survives its four bits, and the cells hold what `latchSync_getElem` says. -/
theorem startInitLatchesOperands : Obligations.StartInitLatchesOperands := by
  intro len tol val rxLen s hs ho
  obtain ⟨-, h8, -⟩ := initOk_iff.1 ho
  exact ⟨_, exec_init_idle hs ho tol rxLen, rfl, toNat_latchedLength h8, fun j => latchSync_getElem val 0 _ j⟩

/-- Settles O18: the state `State.startedPoll` is the one stated. -/
theorem startPollLatchesCapacity : Obligations.StartPollLatchesCapacity := fun cap _ hs => exec_poll_idle hs cap

/-- Settles O19: the state `State.startedTx` is the one stated. -/
theorem startTxLatchesOperands : Obligations.StartTxLatchesOperands := fun len sup _ hs => exec_tx_idle hs len sup

/-- Settles O25, start by start: each leaves every field but its command's own. -/
theorem startsLeaveTheRest : Obligations.StartsLeaveTheRest := by
  intro i s t hi h
  have hst : isStart i = true := by
    obtain ⟨_, _, _, _, rfl⟩ | ⟨_, rfl⟩ | ⟨_, _, rfl⟩ := hi <;> rfl
  obtain ⟨-, ⟨len, tol, val, rxLen, rfl, -, rfl⟩ | ⟨cap, rfl, rfl⟩ | ⟨len, sup, rfl, rfl⟩⟩ := exec_start_cases hst h
  · simp [State.startedInit]
  · simp [State.startedPoll]
  · simp [State.startedTx]

/-! INIT -/

theorem cfgLength_eq (s : State) : s.cfgLength = s.cfg.cfgEntries.length + 2 := by
  simp only [State.cfgLength, cfgList, Params.cfgEntries, List.length_append, List.length_cons, List.length_nil]
  omega

theorem step_i2 {s : State} {k : Nat} {a : Addr} {v : Byte} (h : s.alone = true) (hs : s.seq = .i2 k)
    (he : (cfgList s.cfg s.rxPlen)[k]? = some (a, v)) : step s = .next ((s.wrote a v).gotoI2 (k + 1)) := by
  have hi : microOp s.seq s = .ok (.wreg a v) := hs ▸ microOp_i2 he
  rw [step_alone_wreg h (by simp [hs]) hi, hs]
  rfl

theorem cfgLength_wrote (a : Addr) (v : Byte) (s : State) : (s.wrote a v).cfgLength = s.cfgLength := rfl

theorem cfgList_last {s : State} {k : Nat} {e : Addr × Byte} (he : (cfgList s.cfg s.rxPlen)[k]? = some e)
    (hk : k + 1 = s.cfgLength) : e = (s.cfg.addrPlen, s.rxPlen) := by
  have hlast : (cfgList s.cfg s.rxPlen)[k]? = (cfgList s.cfg s.rxPlen).getLast? := by
    rw [List.getLast?_eq_getElem?]
    congr 1
    exact Nat.eq_sub_of_add_eq hk
  rw [hlast, cfgList, List.getLast?_concat] at he
  exact (Option.some.inj he).symm

/-- Settles O27: `State.gotoI2` after the write, and the last entry of CFG. -/
theorem configurationWrites : Obligations.ConfigurationWrites := by
  refine ⟨fun _ _ => rfl, fun s k a v h hs he => ?_⟩
  have hk : k < s.cfgLength := (List.getElem?_eq_some_iff.1 he).1
  refine ⟨fun hlt => ?_, fun hlast => ⟨?_, cfgList_last he hlast⟩, fun hsize => ?_⟩
  · rw [step_i2 h hs he, State.gotoI2, cfgLength_wrote, if_pos hlt]
  · rw [step_i2 h hs he, State.gotoI2, cfgLength_wrote, if_neg hlast.not_lt]
  · have h255 : s.cfgLength ≤ 255 := by simpa [cfgLength_eq, Params.sizeOk] using hsize
    rw [BitVec.lt_def, BitVec.toNat_ofNat, BitVec.toNat_ofNat]
    omega

theorem step_i3v {s : State} {i : Fin 8} (h : s.alone = true) (hs : s.seq = .i3v i) (hi : i.val < s.syncLen.toNat) :
    step s = .next ((s.wrote (syncValAddr s.cfg i.val) s.syncVal[i]).gotoI3v (i.val + 1)) := by
  have hm : microOp s.seq s = .ok (.wreg (syncValAddr s.cfg i.val) s.syncVal[i]) := hs ▸ microOp_i3v hi
  rw [step_alone_wreg h (by simp [hs]) hm, hs]
  rfl

theorem gotoI3v_of_lt {u : State} (j : Fin 8) (h : j.val < u.syncLen.toNat) :
    u.gotoI3v j.val = { u with seq := .i3v j, idx := BitVec.ofNat 8 j.val } := by
  simp [State.gotoI3v, h]

theorem gotoI3v_of_end {u : State} {k : Nat} (h : u.syncLen.toNat ≤ k) : u.gotoI3v k = { u with seq := .i4 } := by
  simp [State.gotoI3v, Nat.not_lt.2 h]

/-- R7 (b), R153: the sync bytes' addresses do not wrap. -/
theorem toNat_syncValAddr {p : Params} (h : p.syncValOk = true) (i : Fin 8) :
    (syncValAddr p i.val).toNat = p.addrSyncVal.toNat + i.val := by
  have hp : p.addrSyncVal.toNat + 7 ≤ 127 := by simpa [Params.syncValOk] using h
  have hi := i.isLt
  rw [syncValAddr, BitVec.toNat_add, BitVec.toNat_ofNat]
  omega

/-- Settles O30: `State.gotoI3v` after the write, and the address without wrap. -/
theorem syncByteWrites : Obligations.SyncByteWrites := by
  intro s i h _ hs hi
  refine ⟨fun j hj hlt => ?_, fun hlast => ?_, fun hp => toNat_syncValAddr hp i⟩
  · rw [step_i3v h hs hi, ← hj, gotoI3v_of_lt j (by exact hlt)]
  · rw [step_i3v h hs hi, gotoI3v_of_end (by exact hlast.ge)]

theorem step_i5 {s : State} (h : s.alone = true) (hs : s.seq = .i5) :
    step s = .next (microEffect (.setmode .receive) s).finishInit := by
  have hi : microOp s.seq s = .ok (.setmode .receive) := by rw [hs]; rfl
  rw [step_alone_setmode h (by simp [hs]) hi, hs]
  rfl

/-- Settles O31: I4's write and I5's mode write with the end of INIT. -/
theorem initThresholdThenReceive : Obligations.InitThresholdThenReceive := by
  intro s h
  refine ⟨fun hs => ?_, fun hs => ⟨_, step_i5 h hs, rfl⟩⟩
  have hi : microOp s.seq s = .ok (.wreg s.cfg.addrFifoThr s.cfg.valFifoThr) := by rw [hs]; rfl
  rw [step_alone_wreg h (by simp [hs]) hi, hs]
  rfl

/-! POLL -/

theorem flagSet_iff (p : Params) (f : Flag) (v : Byte) : flagSet p f v = true ↔ v &&& (p.flag f).mask ≠ 0 := by
  simp [flagSet]

theorem flagSet_eq_false_iff (p : Params) (f : Flag) (v : Byte) : flagSet p f v = false ↔ v &&& (p.flag f).mask = 0 := by
  simp [flagSet]

/-- P1's step: the flag read, then the loop test or the end (R166, R167). -/
theorem step_p1 {s : State} (h : s.alone = true) (hs : s.seq = .p1) :
    step s = .next (if flagSet s.cfg .pr (s.answerAt 1) then (s.didRead s.cfg.flagPr.addr s.cfg.dummy).pollLoop
      else (s.didRead s.cfg.flagPr.addr s.cfg.dummy).finishPoll false 0) := by
  rw [step_alone_rflag (f := .pr) h (by simp [hs]) (hs ▸ rfl), hs]
  rfl

/-- P2's step: the flag read, then the byte's read or the end (R166, R169). -/
theorem step_p2 {s : State} (h : s.alone = true) (hs : s.seq = .p2) :
    step s = .next (if flagSet s.cfg .fne (s.answerAt 1) then (s.didRead s.cfg.flagFne.addr s.cfg.dummy).goto .p3
      else (s.didRead s.cfg.flagFne.addr s.cfg.dummy).finishPoll true s.idx) := by
  rw [step_alone_rflag (f := .fne) h (by simp [hs]) (hs ▸ rfl), hs]
  rfl

/-- Settles O32: P1's step where the flag is clear. -/
theorem pollNotReadyEndsAtOnce : Obligations.PollNotReadyEndsAtOnce := by
  intro s h hs hf
  rw [step_p1 h hs, (flagSet_eq_false_iff s.cfg .pr _).2 hf]
  rfl

/-- Settles O33: P1's step where the flag is set, and the two outcomes of the loop test. -/
theorem pollReadyTestsTheCount : Obligations.PollReadyTestsTheCount := by
  intro s h hs hf
  rw [step_p1 h hs, (flagSet_iff s.cfg .pr _).2 hf, if_pos rfl]
  refine ⟨fun hlt => ?_, fun hle => ?_⟩
  · rw [State.pollLoop, if_neg (by exact BitVec.not_le.2 hlt)]
    rfl
  · rw [State.pollLoop, if_pos (by exact hle)]
    rfl

/-- Settles O34: P2's step for both values of the flag. -/
theorem pollFifoFlag : Obligations.PollFifoFlag := by
  intro s h hs
  refine ⟨fun hf => ?_, fun hf => ?_⟩
  · rw [step_p2 h hs, (flagSet_iff s.cfg .fne _).2 hf]
    rfl
  · rw [step_p2 h hs, (flagSet_eq_false_iff s.cfg .fne _).2 hf]
    rfl

/-! TX -/

theorem step_alone_fault {s : State} (h : s.alone = true) (hs : s.seq ≠ .idle) {f : Fault}
    (hi : microOp s.seq s = .error f) : step s = .fault f := by
  rw [step_no_move (s.alone_iff.1 h).1, masterStep_busy hs, seqStep_granted (State.busHeld_of_alone h), hi]

/-- Settles O42: T7w for a byte saved and for none, then T7m. -/
theorem txRestoresLengthThenReceives : Obligations.TxRestoresLengthThenReceives := by
  intro s h
  refine ⟨fun v hs hv => ?_, fun hs hv => ?_, fun hs => ?_⟩
  · have hi : microOp s.seq s = .ok (.wreg s.cfg.addrPlen v) := by simp [hs, microOp, microRestore, saved, hv]
    rw [step_alone_wreg h (by simp [hs]) hi, hs]
    rfl
  · exact step_alone_fault h (by simp [hs]) (by simp [hs, microOp, microRestore, saved, hv])
  · have hi : microOp s.seq s = .ok (.setmode .receive) := by rw [hs]; rfl
    rw [step_alone_setmode h (by simp [hs]) hi, hs]
    rfl

end Sys2Proof.Machine

/-! The bits of the sync-configuration byte (R37, R152). -/

namespace Sys2Proof.Machine

/-- Sync-on takes the two high bits only (R7 (e)). -/
theorem syncOn_bits {on : Byte} (h : on &&& 0x3F = 0) : on.toNat % 64 = 0 ∧ on &&& 0xC0 = on := by
  revert on
  decide

/-- A field of three bits takes none of the two high ones, shifted by three or not. -/
theorem field_bits {v : Byte} (h : v.toNat < 8) :
    v &&& 0xC0 = 0 ∧ (v <<< 3) &&& 0xC0 = 0 ∧ (v <<< 3).toNat = 8 * v.toNat := by
  revert v
  decide

/-- Three numbers in bits 7 and 6, 5 to 3, and 2 to 0 share no bit: their OR is their sum. -/
theorem or_fields_eq_add (q : Nat) {l t : Nat} (hl : l < 8) (ht : t < 8) : 64 * q ||| 8 * l ||| t = 64 * q + 8 * l + t := by
  have hlow : 8 * l ||| t = 8 * l + t := (Nat.two_pow_add_eq_or_of_lt (i := 3) ht l).symm
  have hhigh : 64 * q ||| (8 * l + t) = 64 * q + (8 * l + t) :=
    (Nat.two_pow_add_eq_or_of_lt (i := 6) (by omega) q).symm
  rw [Nat.or_assoc, hlow, hhigh, Nat.add_assoc]

/-- Settles O29: the byte is the sum of the three fields. -/
theorem syncConfigurationFields : Obligations.SyncConfigurationFields := by
  intro p len tol hon h1 h8 htol
  have hon' : p.syncOn &&& 0x3F = 0 := by
    simp only [Params.syncOnOk, Bool.and_eq_true, beq_iff_eq] at hon
    exact hon.2
  obtain ⟨hmod, hhigh⟩ := syncOn_bits hon'
  have hlen : (BitVec.ofNat 8 (len - 1)).toNat = len - 1 := by rw [BitVec.toNat_ofNat]; omega
  obtain ⟨-, hlenHigh, hlenNat⟩ := field_bits (v := BitVec.ofNat 8 (len - 1)) (by omega)
  obtain ⟨htolHigh, -, -⟩ := field_bits htol
  have hsum : (syncConfigByte p len tol).toNat = p.syncOn.toNat + 8 * (len - 1) + tol.toNat := by
    have hq : p.syncOn.toNat = 64 * (p.syncOn.toNat / 64) := by omega
    rw [syncConfigByte, BitVec.toNat_or, BitVec.toNat_or, hlenNat, hlen, hq]
    exact or_fields_eq_add _ (by omega) htol
  refine ⟨by omega, by omega, ?_⟩
  rw [syncConfigByte, BitVec.and_or_distrib_right, BitVec.and_or_distrib_right, hhigh, hlenHigh, htolHigh]
  simp

end Sys2Proof.Machine

/-! Reset (R230 to R232): the event, and a bracket it cuts. -/

namespace Sys2Proof.Machine

/-- Settles O43: reset is what the reset event makes of itself. -/
theorem resetValues : Obligations.ResetValues := masterReset_resetMaster State.reset

/-- Where no transaction is under way a reset inside one is the plain reset (R232, log 15). -/
theorem resetInside_of_no_transaction (n : Nat) {s : State} (h : s.seq = .idle ∨ s.busHeld = true) :
    s.resetInside n = s.resetMaster := by
  obtain h | h := h <;> simp [State.resetInside, h, microOp]

/-- Settles O44: both forms of the reset event are `State.resetMaster`. -/
theorem resetEventResetsTheMasterOnly : Obligations.ResetEventResetsTheMasterOnly := by
  intro s rest h
  have hstep : step s = .next (State.resetMaster { s with host := rest }) := by
    obtain h | ⟨n, h, hn⟩ := h
    · exact step_reset h
    · rw [step_resetIn h, resetInside_of_no_transaction n (by exact hn)]
  exact ⟨_, hstep, masterReset_resetMaster _, by simp [sameOutside], rfl⟩

theorem microOp_host (l : Label) (s : State) (rest : List HostMove) :
    microOp l { s with host := rest } = microOp l s := by
  cases l <;> rfl

theorem step_resetIn_cut {s : State} {n : Nat} {rest : List HostMove} {i : Instr} (h : s.host = .resetIn n :: rest)
    (hb : s.busHeld = false) (hi : microOp s.seq s = .ok i) :
    step s = .next (State.resetMaster (State.cutBracket n i { s with host := rest })) := by
  have hb' : State.busHeld { s with host := rest } = false := hb
  have hi' : microOp s.seq { s with host := rest } = .ok i := (microOp_host _ _ _).trans hi
  rw [step_resetIn h]
  simp [State.resetInside, hb', hi']

/-- The state a bracket leaves that was cut after `k` exchanges, its events `es`: nothing is known of the chip (R232). -/
def State.afterCut (k : Nat) (es : List Event) (s : State) : State := (s.afterBracket k es).forgetChip

/-- A frame that reads nothing from the buffer, cut (R81, R82). -/
theorem cutBracket_frame {i : Instr} (n : Nat) (s : State) (h : ∀ k, i ≠ .fifowr k) :
    s.cutBracket n i =
      s.afterCut ((i.frameBytes s.cfg []).take n).length (cutEvents ((i.frameBytes s.cfg []).take n) s) := by
  rw [State.cutBracket, State.exchanges_frame s h, ← List.map_take, foldl_exchange_frame]
  simp [State.closeBracket, State.forgetChip, State.afterCut, State.afterBracket, cutEvents]

/-- A bracket cut before its first byte. -/
theorem cutBracket_zero (i : Instr) (s : State) : s.cutBracket 0 i = s.afterCut 0 (cutEvents [] s) := by
  simp [State.cutBracket, State.closeBracket, State.openBracket, State.forgetChip, State.afterCut, State.afterBracket,
    cutEvents]

/-- FIFOWR's burst, cut after its address byte and `n` data bytes, or all of them (R116). -/
theorem cutBracket_fifowr (n : Nat) (len : Byte) (s : State) :
    s.cutBracket (n + 1) (.fifowr len) =
      s.afterCut (min n len.toNat + 1) (fifoEvents (min n len.toNat) s) := by
  have hfold := foldl_exchange_buffer (min n len.toNat) (s.openBracket.xfer (addrByte true s.cfg.addrFifo))
  have hb : ∀ j, (s.openBracket.xfer (addrByte true s.cfg.addrFifo)).bufByte j = s.bufByte j := fun j =>
    State.bufByte_congr rfl rfl j
  simp only [hb, State.answerAt_xfer, State.answerAt_openBracket] at hfold
  rw [State.cutBracket, State.exchanges_fifowr, List.foldl_cons, State.exchange, hfold]
  simp [State.closeBracket, State.forgetChip, State.afterCut, State.afterBracket, fifoEvents, drawn_startBurst,
    Nat.add_comm]

/-- After a cut and the reset that made it: R45's values, and outside the master what the cut left. -/
theorem reset_afterCut (k : Nat) (es : List Event) (s : State) (rest : List HostMove) :
    let t := (State.afterCut k es { s with host := rest }).resetMaster
    t.masterReset ∧ cutOutside k s t ∧ t.host = rest ∧ t.trace = s.trace ++ es :=
  ⟨masterReset_resetMaster _, by simp [cutOutside, State.afterCut, State.afterBracket], rfl, rfl⟩

/-- Settles O45: the cut bracket in closed form, for two-byte frames and for T4's burst. -/
theorem resetInsideTheBurst : Obligations.ResetInsideTheBurst := by
  intro s n rest hb
  refine ⟨fun i hh hi hq => ?_, fun hh hq => ?_, fun hh hq => ?_⟩
  · have hlen : ((i.frameBytes s.cfg []).take n).length = min n 2 := by
      rw [List.length_take, microOp_two_bytes hi hq]
    refine ⟨_, step_resetIn_cut hh hb hi, ?_⟩
    rw [cutBracket_frame n _ (microOp_ne_fifowr hi hq), ← hlen]
    exact reset_afterCut _ _ s rest
  · have hi : microOp s.seq s = .ok (.fifowr s.txLen) := by rw [hq]; rfl
    refine ⟨_, step_resetIn_cut hh hb hi, ?_⟩
    rw [cutBracket_zero]
    exact reset_afterCut _ _ s rest
  · have hi : microOp s.seq s = .ok (.fifowr s.txLen) := by rw [hq]; rfl
    refine ⟨_, step_resetIn_cut hh hb hi, ?_⟩
    rw [cutBracket_fifowr]
    exact reset_afterCut _ _ s rest

end Sys2Proof.Machine

/-! Waiting: in Idle, on a held bus, and with the host's moves (O9's clauses). -/

namespace Sys2Proof.Machine

theorem step_held {s : State} (hh : s.host = []) (hs : s.seq ≠ .idle) (hb : s.busHeld = true) : step s = .next s.hold := by
  rw [step_no_move hh, masterStep_busy hs, seqStep_held hb]

/-- Whatever has a frame holds at `Acquire()` (R73, R118). -/
theorem exec_held {i : Instr} {s : State} (hw : i.wf = true) (hf : i.frameBytes s.cfg [] ≠ []) (hb : s.busHeld = true) :
    exec i s = .next s.hold := by
  have hbus (g : State → State) : withBus s g = .next s.hold := by simp [withBus, hb]
  cases i with
  | w | r | wreg | rreg | fifowr | setmode | clrfifo | rflag => exact hbus _
  | bw a data =>
    have hd : burstOk data = true := hw
    simp only [exec, execBw, hd, if_true, hbus]
  | init | poll | tx | reserved => exact absurd rfl hf

theorem hold_of_no_grants {s : State} (h : s.arbiter = []) : s.hold = s := by
  rw [State.hold, h, List.tail_nil, ← h]

/-- R210: a bus never granted again holds a busy master for ever. -/
theorem run_never_granted (n : Nat) {s : State} (hh : s.host = []) (hs : s.seq ≠ .idle) (ha : s.arbiter = [])
    (he : s.arbiterEnd = .never) : run n s = .next s := by
  induction n with
  | zero => rfl
  | succ n ih =>
    have hb : s.busHeld = true := by simp [State.busHeld, ha, he]
    rw [run_succ_of_next (step_held hh hs hb), hold_of_no_grants ha, ih]

/-- D26, U18: under a fair arbiter the refusals at the head of the schedule pass, and the bus is granted. -/
theorem run_until_granted {s : State} (hh : s.host = []) (hs : s.seq ≠ .idle) (hf : s.fair = true) :
    ∃ n, run n s = .next { s with arbiter := s.arbiter.drop n } ∧
      State.busHeld { s with arbiter := s.arbiter.drop n } = false := by
  induction hg : s.arbiter generalizing s with
  | nil =>
    refine ⟨0, by rw [List.drop_nil, ← hg]; rfl, ?_⟩
    have he : s.arbiterEnd = .granted := by simpa [State.fair] using hf
    simp [State.busHeld, he]
  | cons g gs ih =>
    cases g with
    | true => exact ⟨0, by rw [List.drop_zero, ← hg]; rfl, rfl⟩
    | false =>
      have hb : s.busHeld = true := by simp [State.busHeld, hg]
      obtain ⟨n, hrun, hfree⟩ := ih (s := s.hold) hh hs hf (by simp [hg])
      exact ⟨n + 1, by rw [run_succ_of_next (step_held hh hs hb), hrun]; rfl, hfree⟩

/-- Settles O9, clause by clause. -/
theorem masterWaits : Obligations.MasterWaits := by
  refine ⟨?idle, ?held, ?execHeld, ?never, ?fair, ?noMove, ?await, ?pause, ?load⟩
  case idle => exact fun s hh hs => by rw [step_no_move hh, masterStep_idle hs]
  case held => exact fun s => step_held
  case execHeld => exact fun i s => exec_held
  case never => exact fun s n => run_never_granted n
  case fair => exact fun s => run_until_granted
  case noMove => exact fun s => step_no_move
  case await =>
    exact fun s rest hh => ⟨fun hs => by rw [step_await hh, if_pos hs], fun hs => by rw [step_await hh, if_neg hs]⟩
  case pause => exact fun s rest => step_pause
  case load =>
    intro s data rest hh
    refine ⟨fun hs => ⟨_, by rw [step_load hh, if_pos hs], rfl, fun j => ?_⟩, fun hs => by rw [step_load hh, if_neg hs]⟩
    have hread := Memory.read?_ofBytes 0 j data
    rwa [Nat.zero_add] at hread

end Sys2Proof.Machine

/-! The chip's memory and the assumptions about it (20_memory.md): the host's word, the liveness loops under E-PLAIN, the
packet-sent spin under E-SENT, and the drain of a received frame under E-RXFIFO. -/

namespace Sys2Proof.Machine

/-! The host's word -/

theorem issueWord_of_decode {w : PortWord} {i : Instr} (h : decode w = .ok i) (rest : List HostMove) (s : State) :
    issueWord w rest s =
      if isFrame i then
        if s.seq ≠ .idle then .fault .cmdWhileBusy
        else if s.busHeld then .next s.hold
        else exec i { s with host := rest }
      else exec i { s with host := rest } := by
  rw [issueWord, h]

/-- Settles O6: the branches of `issueWord` on a word that decodes. -/
theorem stepRunsTheIssuedWord : Obligations.StepRunsTheIssuedWord := by
  intro s w rest i hh hd _
  rw [step_issue hh, issueWord_of_decode hd]
  refine ⟨fun hf => ?command, fun hf hs hb => ?granted, fun hf hs hb => ?held, fun hf hs => ?busy⟩
  case command => rw [hf, if_neg Bool.false_ne_true]
  case granted => rw [if_pos hf, if_neg (not_not.2 hs), hb, if_neg Bool.false_ne_true]
  case held => rw [if_pos hf, if_neg (not_not.2 hs), if_pos hb, State.hold]
  case busy => rw [if_pos hf, if_pos hs]

/-! A read frame and what comes after it -/

theorem State.answerAt_didRead (a : Addr) (d : Byte) (s : State) (k : Nat) :
    (s.didRead a d).answerAt k = s.answerAt (2 + k) :=
  State.answerAt_of_rx 2 rfl rfl k

theorem State.alone_didRead (a : Addr) (d : Byte) {s : State} (h : s.alone = true) : (s.didRead a d).alone = true :=
  State.alone_congr h rfl rfl rfl

theorem State.answerAt_goto (l : Label) (s : State) (k : Nat) : (s.goto l).answerAt k = s.answerAt k := rfl

/-! The liveness loops -/

theorem sentinelRead_didRead (a : Addr) (d v : Byte) (s : State) :
    (s.didRead a d).sentinelRead v = true ↔ s.answerAt 1 = v := by
  simp [State.sentinelRead, State.didRead]

theorem step_i1w {s : State} (h : s.alone = true) (hs : s.seq = .i1w) :
    step s = .next ((s.wrote s.cfg.addrScratch Config.sentinelA).goto .i1r) := by
  rw [step_alone_wreg (a := s.cfg.addrScratch) (v := Config.sentinelA) h (by simp [hs]) (hs ▸ rfl), hs]
  rfl

theorem step_i1w2 {s : State} (h : s.alone = true) (hs : s.seq = .i1w2) :
    step s = .next ((s.wrote s.cfg.addrScratch Config.sentinelB).goto .i1r2) := by
  rw [step_alone_wreg (a := s.cfg.addrScratch) (v := Config.sentinelB) h (by simp [hs]) (hs ▸ rfl), hs]
  rfl

/-- I1r's step where the first sentinel is read back. -/
theorem step_i1r {s : State} (h : s.alone = true) (hs : s.seq = .i1r) (ha : s.answerAt 1 = Config.sentinelA) :
    step s = .next ((s.didRead s.cfg.addrScratch s.cfg.dummy).goto .i1w2) := by
  rw [step_alone_rreg (a := s.cfg.addrScratch) h (by simp [hs]) (hs ▸ rfl), hs, advance,
    (sentinelRead_didRead _ _ _ s).2 ha, if_pos rfl]

/-- I1r2's step where the second sentinel is read back. -/
theorem step_i1r2 {s : State} (h : s.alone = true) (hs : s.seq = .i1r2) (ha : s.answerAt 1 = Config.sentinelB) :
    step s = .next ((s.didRead s.cfg.addrScratch s.cfg.dummy).gotoI2 0) := by
  rw [step_alone_rreg (a := s.cfg.addrScratch) h (by simp [hs]) (hs ▸ rfl), hs, advance,
    (sentinelRead_didRead _ _ _ s).2 ha, if_pos rfl]

/-- CFG is never empty: it ends with the payload length (R151). -/
theorem gotoI2_zero_seq (s : State) : (s.gotoI2 0).seq = .i2 0 := by
  rw [State.gotoI2, if_pos (by rw [cfgLength_eq]; omega)]

/-- E-PLAIN of a register just written: its read returns the byte written (R63). -/
theorem answerAt_of_ePlain_wrote {a : Addr} {v : Byte} {l : Label} {s : State}
    (h : ((s.wrote a v).goto l).ePlain a = true) : ((s.wrote a v).goto l).answerAt 1 = v := by
  have hread : ((s.wrote a v).goto l).regs.read? a.toNat = some v := Memory.read?_write_self s.regs a.toNat v
  rw [State.ePlain, hread, beq_iff_eq] at h
  exact (Option.some.inj h).symm

/-- Settles O57: after the write the read of each loop returns the sentinel. -/
theorem livenessEndsUnderEPlain : Obligations.LivenessEndsUnderEPlain := by
  intro s t h hst he
  refine ⟨fun hs => ?first, fun hs => ?second⟩
  case first =>
    rw [step_i1w h hs] at hst
    cases hst
    exact ⟨_, step_i1r (State.alone_congr h rfl rfl rfl) rfl (answerAt_of_ePlain_wrote he), rfl⟩
  case second =>
    rw [step_i1w2 h hs] at hst
    cases hst
    exact ⟨_, step_i1r2 (State.alone_congr h rfl rfl rfl) rfl (answerAt_of_ePlain_wrote he), gotoI2_zero_seq _⟩

/-! What a run puts on the trace -/

/-- `t` comes after `s` by whole brackets that read back as the transactions `ts` (R97), with the buffer writes `ws`. -/
def Traced (s t : State) (ts : List Txn) (ws : List (Nat × Byte)) : Prop :=
  ∃ es, traceOk es = true ∧ t.trace = s.trace ++ es ∧ transactions es = ts.map some ∧ bufWrites es = ws

theorem Traced.refl (s : State) : Traced s s [] [] := ⟨[], rfl, (List.append_nil _).symm, rfl, rfl⟩

theorem Traced.trans {s t u : State} {ts ts' : List Txn} {ws ws' : List (Nat × Byte)} (h : Traced s t ts ws)
    (k : Traced t u ts' ws') : Traced s u (ts ++ ts') (ws ++ ws') := by
  obtain ⟨es, hes, ht, htx, hbw⟩ := h
  obtain ⟨fs, hfs, hu, htx', hbw'⟩ := k
  exact ⟨es ++ fs, traceOk_append hes hfs, by rw [hu, ht, List.append_assoc],
    by rw [transactions_append fs hes, htx, htx', List.map_append], by rw [bufWrites_append, hbw, hbw']⟩

theorem traced_didRead (a : Addr) (d : Byte) (s : State) : Traced s (s.didRead a d) [.r a (s.answerAt 1)] [] :=
  ⟨_, traceOk_readEvents a d s, rfl, transactions_readEvents a d s, rfl⟩

theorem traced_bufWr (i : Nat) (b n : Byte) (s : State) : Traced s { s.bufWr i b with idx := n } [] [(i, b)] :=
  ⟨[.bufWr i b], rfl, rfl, rfl, rfl⟩

theorem Traced.finishPoll {s t : State} {ts : List Txn} {ws : List (Nat × Byte)} (h : Traced s t ts ws) (received : Bool)
    (n : Byte) : Traced s (t.finishPoll received n) ts ws := by
  have hdone : Traced t (t.finishPoll received n) [] [] := ⟨[.done (some (received, n))], rfl, rfl, rfl, rfl⟩
  simpa using h.trans hdone

theorem Traced.pollLoop {s t : State} {ts : List Txn} {ws : List (Nat × Byte)} (h : Traced s t ts ws) :
    Traced s t.pollLoop ts ws := by
  unfold State.pollLoop
  split
  · exact h.finishPoll true t.idx
  · exact h

/-- The chip of a run sees the run's transactions (R61, R62). -/
theorem chipOf_act {s t : State} {h : ChipRun} {r : Nat → Nat} {n j : Nat} {ts : List Txn} {ws : List (Nat × Byte)}
    {x : Txn} (hc : h.chipOf s r) (hrun : run n s = .next t) (ht : Traced s t ts ws) (hx : ts[j]? = some x) :
    h.act (r j) = .txn x := by
  obtain ⟨-, hact, -⟩ := hc
  obtain ⟨es, -, htrace, htx, -⟩ := ht
  refine hact n j t x hrun ?_
  rw [newEvents, htrace, List.drop_left, htx, List.getElem?_map, hx]
  rfl

theorem chipOf_only {s : State} {h : ChipRun} {r : Nat → Nat} {i : Nat} {x : Txn} (hc : h.chipOf s r) (hi : r 0 ≤ i)
    (hx : h.act i = .txn x) : ∃ j, i = r j :=
  hc.2.2 i x hi hx

theorem chipOf_strictMono {s : State} {h : ChipRun} {r : Nat → Nat} (hc : h.chipOf s r) : StrictMono r :=
  fun i j => hc.1 i j

/-! The packet-sent spin -/

theorem step_t5p {s : State} (h : s.alone = true) (hs : s.seq = .t5p) :
    step s = .next ((s.didRead s.cfg.flagPs.addr s.cfg.dummy).goto
      (if flagSet s.cfg .ps (s.answerAt 1) then (if s.suppress then .t6m else .t7w) else .t5p)) := by
  rw [step_alone_rflag (f := .ps) h (by simp [hs]) (hs ▸ rfl), hs]
  rfl

/-- `t` is the spin that began at `s` after `n` reads that found packet sent clear (R188). -/
structure Spun (s : State) (n : Nat) (t : State) : Prop where
  alone : t.alone = true
  seq : t.seq = .t5p
  cmd : t.cmd = s.cmd
  regs : t.regs = s.regs
  gMode : t.gMode = s.gMode
  cfg : t.cfg = s.cfg
  suppress : t.suppress = s.suppress
  answers : ∀ i, t.answerAt i = s.answerAt (2 * n + i)
  traced : Traced s t ((List.range n).map fun j => .r s.cfg.flagPs.addr (s.answerAt (2 * j + 1))) []

/-- One more read of packet sent. -/
theorem Spun.traced_didRead {s t : State} {n : Nat} (h : Spun s n t) :
    Traced s (t.didRead t.cfg.flagPs.addr t.cfg.dummy)
      ((List.range (n + 1)).map fun j => .r s.cfg.flagPs.addr (s.answerAt (2 * j + 1))) [] := by
  have hread := h.traced.trans (Machine.traced_didRead t.cfg.flagPs.addr t.cfg.dummy t)
  rw [h.answers, h.cfg] at hread
  rwa [List.range_succ, List.map_append, h.cfg]

theorem Spun.step_clear {s t : State} {n : Nat} (h : Spun s n t)
    (hf : flagSet s.cfg .ps (s.answerAt (2 * n + 1)) = false) : ∃ u, step t = .next u ∧ Spun s (n + 1) u := by
  refine ⟨_, step_t5p h.alone h.seq, ?_⟩
  rw [h.cfg, h.answers, hf, if_neg Bool.false_ne_true, ← h.cfg]
  exact {
    alone := State.alone_didRead t.cfg.flagPs.addr t.cfg.dummy h.alone
    seq := rfl
    cmd := h.cmd
    regs := h.regs
    gMode := h.gMode
    cfg := h.cfg
    suppress := h.suppress
    answers := fun i => by
      rw [State.answerAt_goto, State.answerAt_didRead, h.answers]
      congr 1
      omega
    traced := h.traced_didRead }

theorem run_spun {s : State} (h : s.alone = true) (hs : s.seq = .t5p) (n : Nat)
    (hf : ∀ j, j < n → flagSet s.cfg .ps (s.answerAt (2 * j + 1)) = false) :
    ∃ t, run n s = .next t ∧ Spun s n t := by
  induction n with
  | zero =>
    exact ⟨s, rfl, ⟨h, hs, rfl, rfl, rfl, rfl, rfl, fun i => by rw [Nat.mul_zero, Nat.zero_add], Traced.refl s⟩⟩
  | succ n ih =>
    obtain ⟨t, hrun, ht⟩ := ih fun j hj => hf j (by omega)
    obtain ⟨u, hu, hspun⟩ := ht.step_clear (hf n (by omega))
    exact ⟨u, by rw [run_add 1 hrun, run_succ_of_next hu]; rfl, hspun⟩

theorem run_leaves_spin {s : State} (h : s.alone = true) (hs : s.seq = .t5p) {n : Nat} (hn : s.sentAfter n) :
    ∃ t, run (n + 1) s = .next t ∧ t.seq = if s.suppress then .t6m else .t7w := by
  obtain ⟨hclear, hset⟩ := hn
  obtain ⟨t, hrun, ht⟩ := run_spun h hs n hclear
  refine ⟨_, by rw [run_add 1 hrun, run_succ_of_next (step_t5p ht.alone ht.seq)]; rfl, ?_⟩
  rw [ht.cfg, ht.answers, hset, if_pos rfl, ht.suppress]
  rfl

/-- Packet sent is read set at some time, or never. -/
theorem sentAfter_or_never (s : State) :
    (∃ n, s.sentAfter n) ∨ ∀ j, flagSet s.cfg .ps (s.answerAt (2 * j + 1)) = false := by
  by_cases hex : ∃ n, flagSet s.cfg .ps (s.answerAt (2 * n + 1)) = true
  · exact .inl ⟨Nat.find hex, fun j hj => Bool.not_eq_true _ ▸ Nat.find_min hex hj, Nat.find_spec hex⟩
  · exact .inr fun j => Bool.not_eq_true _ ▸ not_exists.1 hex j

theorem endsSent_of_read (p : Params) (a : Addr) (v : Byte) : (ChipAct.txn (.r a v)).endsSent p = false := rfl

/-- A chip that answers a spin with no end sees the packet-sent reads one after another. -/
theorem act_of_endless_spin {s : State} {h : ChipRun} {r : Nat → Nat} (hal : s.alone = true) (hs : s.seq = .t5p)
    (hc : h.chipOf s r) (hf : ∀ j, flagSet s.cfg .ps (s.answerAt (2 * j + 1)) = false) (j : Nat) :
    h.act (r j) = .txn (.r s.cfg.flagPs.addr (s.answerAt (2 * j + 1))) := by
  obtain ⟨t, hrun, ht⟩ := run_spun hal hs (j + 1) fun i _ => hf i
  exact chipOf_act hc hrun ht.traced (by simp)

/-- From the start of an endless spin on, nothing ends packet sent but a reset of the chip (R67). -/
theorem endsSent_of_endless_spin {s : State} {h : ChipRun} {r : Nat → Nat} (hal : s.alone = true) (hs : s.seq = .t5p)
    (hc : h.chipOf s r) (hf : ∀ j, flagSet s.cfg .ps (s.answerAt (2 * j + 1)) = false) {l : Nat} (hl : r 0 ≤ l)
    (hr : h.act l ≠ .reset) : (h.act l).endsSent s.cfg = false := by
  cases hx : h.act l with
  | txn x =>
    obtain ⟨j, rfl⟩ := chipOf_only hc hl hx
    rw [← hx, act_of_endless_spin hal hs hc hf j, endsSent_of_read]
  | receive frame => rfl
  | own => rfl
  | reset => exact absurd hx hr

/-- Settles O60: the spin by induction on the reads; under E-SENT an endless spin would read packet sent set. -/
theorem txSpinLastsUntilSent : Obligations.TxSpinLastsUntilSent := by
  intro s hal hs
  refine ⟨fun n hf => ?spins, fun n => run_leaves_spin hal hs, ?ends⟩
  case spins =>
    obtain ⟨t, hrun, ht⟩ := run_spun hal hs n hf
    exact ⟨t, hrun, ht.seq, ht.cmd, ht.regs, ht.gMode⟩
  case ends =>
    intro h r k len hc hsent hk hfifo hpos hcap hlen hkr hbefore hreset
    refine (sentAfter_or_never s).resolve_right fun hf => ?_
    obtain ⟨m, -, hset⟩ := hsent k len hk hfifo hpos hcap hlen
    have hquiet : ∀ l, k < l → l < r m → (h.act l).endsSent s.cfg = false := fun l hkl _ =>
      (Nat.lt_or_ge l (r 0)).elim (hbefore l hkl) fun hl => endsSent_of_endless_spin hal hs hc hf hl (hreset l hkl)
    have hread : (h.act (r m)).reads s.cfg.flagPs.addr = some (s.answerAt (2 * m + 1)) := by
      rw [act_of_endless_spin hal hs hc hf m]
      exact if_pos rfl
    have hps := hset (r m) _ ((chipOf_strictMono hc).le_apply) hquiet hread
    rw [hf m] at hps
    cases hps

/-! The drain of POLL -/

/-- P3's step: the FIFO read, then the byte's place in the buffer and the loop test (R166, R169). -/
theorem step_p3 {s : State} (h : s.alone = true) (hs : s.seq = .p3) :
    step s = .next ((s.didRead s.cfg.addrFifo s.cfg.dummy).storeByte (s.answerAt 1)) := by
  rw [step_alone_rreg (a := s.cfg.addrFifo) h (by simp [hs]) (hs ▸ rfl), hs]
  rfl

/-- P2's read of FIFO-not-empty, in a state whose loop test is still to be made. -/
def State.looked (u : State) : State := (u.goto .p2).didRead u.cfg.flagFne.addr u.cfg.dummy

/-- P3's read of the FIFO, before its byte is stored. -/
def State.popped (u : State) : State := (u.looked.goto .p3).didRead u.cfg.addrFifo u.cfg.dummy

/-- One iteration of POLL's loop that drains a byte, up to the next loop test (R168, R169). -/
def State.took (u : State) : State := { u.popped.bufWr u.idx.toNat (u.looked.answerAt 1) with idx := u.idx + 1 }

theorem State.answerAt_looked (u : State) (k : Nat) : u.looked.answerAt k = u.answerAt (2 + k) :=
  State.answerAt_didRead _ _ (u.goto .p2) k

theorem State.answerAt_took (u : State) (k : Nat) : u.took.answerAt k = u.answerAt (4 + k) := by
  have hpop : u.took.answerAt k = u.looked.answerAt (2 + k) := 
    State.answerAt_didRead u.cfg.addrFifo u.cfg.dummy (u.looked.goto .p3) k
  rw [hpop, State.answerAt_looked, ← Nat.add_assoc]

theorem State.alone_looked {u : State} (h : u.alone = true) : u.looked.alone = true := State.alone_didRead _ _ h

theorem State.alone_took {u : State} (h : u.alone = true) : u.took.alone = true :=
  State.alone_didRead u.cfg.addrFifo u.cfg.dummy (State.alone_looked h)

theorem State.pollLoop_of_full {u : State} (h : u.cap.toNat ≤ u.idx.toNat) : u.pollLoop = u.finishPoll true u.idx :=
  if_pos h

theorem State.pollLoop_of_room {u : State} (h : u.idx.toNat < u.cap.toNat) : u.pollLoop = u.goto .p2 :=
  if_neg (Nat.not_le.2 h)

/-- With room left the loop reads FIFO-not-empty (R168, R169). -/
theorem step_pollLoop {u : State} (h : u.alone = true) (hroom : u.idx.toNat < u.cap.toNat) :
    step u.pollLoop =
      .next (if flagSet u.cfg .fne (u.answerAt 1) then u.looked.goto .p3 else u.looked.finishPoll true u.idx) := by
  rw [State.pollLoop_of_room hroom]
  exact step_p2 (s := u.goto .p2) h rfl

theorem run_took {u : State} (h : u.alone = true) (hroom : u.idx.toNat < u.cap.toNat)
    (hf : flagSet u.cfg .fne (u.answerAt 1) = true) : run 2 u.pollLoop = .next u.took.pollLoop := by
  have hlook : step u.pollLoop = .next (u.looked.goto .p3) := by rw [step_pollLoop h hroom, if_pos hf]
  have htake : step (u.looked.goto .p3) = .next u.took.pollLoop := step_p3 (State.alone_looked h) rfl
  rw [run_succ_of_next hlook, run_succ_of_next htake]
  rfl

/-! The reads of R171 -/

theorem pollTxns_succ (k : Nat) (s : State) :
    pollTxns (k + 1) s = pollTxns k s ++ [pollEmptyTxn k s] ++ [.r s.cfg.addrFifo (s.answerAt (4 * k + 5))] := by
  simp [pollTxns, pollEmptyTxn, List.range_succ]

theorem length_pollTxns (k : Nat) (s : State) : (pollTxns k s).length = 2 * k + 1 := by
  induction k with
  | zero => rfl
  | succ k ih => rw [pollTxns_succ, List.length_append, List.length_append, ih]; rfl

/-- The buffer writes of a POLL that drains `k` bytes (R171). -/
def drainedWrites (k : Nat) (s : State) : List (Nat × Byte) := (List.range k).map fun j => (j, s.answerAt (4 * j + 5))

theorem drainedWrites_succ (k : Nat) (s : State) :
    drainedWrites (k + 1) s = drainedWrites k s ++ [(k, s.answerAt (4 * k + 5))] := by
  rw [drainedWrites, List.range_succ, List.map_append]
  rfl

/-! The invariant of the drain -/

/-- `u` is the POLL that began at `s` after `k` bytes drained, its loop test still to be made (R168). -/
structure Drained (s : State) (k : Nat) (u : State) : Prop where
  alone : u.alone = true
  cfg : u.cfg = s.cfg
  cap : u.cap = s.cap
  idx : u.idx.toNat = k
  answers : ∀ i, u.answerAt i = s.answerAt (4 * k + 2 + i)
  traced : Traced s u (pollTxns k s) (drainedWrites k s)
  buffer : ∀ j, u.buffer.read? j = if j < k then some (s.answerAt (4 * j + 5)) else s.buffer.read? j

section
variable {s u : State} {k : Nat}

theorem drained_zero (h : s.alone = true) (hi : s.idx = 0) :
    Drained s 0 (s.didRead s.cfg.flagPr.addr s.cfg.dummy) where
  alone := State.alone_didRead _ _ h
  cfg := rfl
  cap := rfl
  idx := congrArg BitVec.toNat hi
  answers := State.answerAt_didRead _ _ s
  traced := traced_didRead _ _ s
  buffer j := (if_neg (Nat.not_lt_zero j)).symm

/-- The byte that the next iteration takes. -/
theorem Drained.byte (h : Drained s k u) : u.looked.answerAt 1 = s.answerAt (4 * k + 5) := by
  rw [State.answerAt_looked, h.answers]

/-- The drain and one more read of FIFO-not-empty. -/
theorem Drained.traced_looked (h : Drained s k u) :
    Traced s u.looked (pollTxns k s ++ [pollEmptyTxn k s]) (drainedWrites k s) := by
  have hread : Traced u u.looked [.r u.cfg.flagFne.addr (u.answerAt 1)] [] := traced_didRead _ _ (u.goto .p2)
  rw [h.cfg, h.answers] at hread
  exact List.append_nil (drainedWrites k s) ▸ h.traced.trans hread

theorem Drained.traced_took (h : Drained s k u) : Traced s u.took (pollTxns (k + 1) s) (drainedWrites (k + 1) s) := by
  have hpop : Traced u.looked u.popped [.r u.cfg.addrFifo (u.looked.answerAt 1)] [] :=
    traced_didRead _ _ (u.looked.goto .p3)
  have hstore : Traced u.popped u.took [] [(u.idx.toNat, u.looked.answerAt 1)] := traced_bufWr _ _ _ _
  have hboth := h.traced_looked.trans (hpop.trans hstore)
  rw [h.byte, h.idx, h.cfg] at hboth
  rw [pollTxns_succ, drainedWrites_succ]
  exact hboth

/-- The byte taken stands at index `k`, the others as before. -/
theorem Drained.buffer_took (h : Drained s k u) (j : Nat) :
    u.took.buffer.read? j = if j < k + 1 then some (s.answerAt (4 * j + 5)) else s.buffer.read? j := by
  have hbuf : u.took.buffer = u.buffer.write k (s.answerAt (4 * k + 5)) := by
    rw [← h.byte, ← h.idx]
    rfl
  rw [hbuf]
  by_cases hj : j = k
  · subst hj
    rw [Memory.read?_write_self, if_pos (Nat.lt_succ_self j)]
  · have hlt : j < k + 1 ↔ j < k := by omega
    rw [Memory.read?_write_other _ _ _ _ hj, h.buffer]
    simp only [hlt]

theorem Drained.took (h : Drained s k u) (hk : k < s.cap.toNat) : Drained s (k + 1) u.took where
  alone := State.alone_took h.alone
  cfg := h.cfg
  cap := h.cap
  idx := by
    have hidx : u.took.idx = u.idx + 1 := rfl
    have hcap := s.cap.isLt
    have hu := h.idx
    rw [hidx]
    bv_omega
  answers i := by
    rw [State.answerAt_took, h.answers]
    congr 1
    omega
  traced := h.traced_took
  buffer := h.buffer_took

theorem Drained.room (h : Drained s k u) (hk : k < s.cap.toNat) : u.idx.toNat < u.cap.toNat := by
  rwa [h.idx, h.cap]

theorem Drained.fne (h : Drained s k u) {b : Bool} (hf : flagSet s.cfg .fne (s.answerAt (4 * k + 3)) = b) :
    flagSet u.cfg .fne (u.answerAt 1) = b := by
  rw [h.cfg, h.answers, ← hf]

end

section
variable {s : State}

/-- The drain by induction on the bytes drained. -/
theorem run_drained (h : s.alone = true) (hs : s.seq = .p1) (hi : s.idx = 0)
    (hpr : flagSet s.cfg .pr (s.answerAt 1) = true) (k : Nat) (hk : k ≤ s.cap.toNat)
    (hf : ∀ j, j < k → flagSet s.cfg .fne (s.answerAt (4 * j + 3)) = true) :
    ∃ u, run (1 + 2 * k) s = .next u.pollLoop ∧ Drained s k u := by
  induction k with
  | zero =>
    have hready : step s = .next (s.didRead s.cfg.flagPr.addr s.cfg.dummy).pollLoop := by rw [step_p1 h hs, if_pos hpr]
    exact ⟨_, run_succ_of_next hready, drained_zero h hi⟩
  | succ k ih =>
    obtain ⟨u, hrun, hu⟩ := ih (by omega) fun j hj => hf j (by omega)
    refine ⟨u.took, ?_, hu.took (by omega)⟩
    rw [show 1 + 2 * (k + 1) = 1 + 2 * k + 2 by omega, run_add 2 hrun,
      run_took hu.alone (hu.room (by omega)) (hu.fne (hf k (by omega)))]

/-- With room left, the next transaction is the read of FIFO-not-empty, whatever it finds. -/
theorem run_looked {k : Nat} {u : State} (hrun : run (1 + 2 * k) s = .next u.pollLoop) (hu : Drained s k u)
    (hk : k < s.cap.toNat) :
    ∃ t, run (1 + 2 * k + 1) s = .next t ∧ Traced s t (pollTxns k s ++ [pollEmptyTxn k s]) (drainedWrites k s) := by
  refine ⟨_, by rw [run_add 1 hrun, run_succ_of_next (step_pollLoop hu.alone (hu.room hk))]; rfl, ?_⟩
  split
  · exact hu.traced_looked
  · exact hu.traced_looked.finishPoll true u.idx

/-- The end of a drain, reached after `k` bytes by way of the transactions `tail`: the reads of R171 and the frame's bytes in
the buffer (R176). -/
theorem Drained.delivers {k : Nat} {u w : State} {d : List Byte} {tail : List Txn} (hu : Drained s k u)
    (hk : k = min d.length s.cap.toNat) (hd : ∀ j, j < k → d[j]? = some (s.answerAt (4 * j + 5)))
    (hw : Traced s w (pollTxns k s ++ tail) (drainedWrites k s)) (hb : w.buffer = u.buffer) :
    ∃ es, (w.finishPoll true u.idx).resLen.toNat = k ∧
      (w.finishPoll true u.idx).trace = s.trace ++ es ++ [.done (some (true, (w.finishPoll true u.idx).resLen))] ∧
      transactions es = (pollTxns k s ++ tail).map some ∧
      bufWrites es = (d.take s.cap.toNat).mapIdx (fun j b => (j, b)) ∧
      (∀ j, j < k → (w.finishPoll true u.idx).buffer.read? j = d[j]?) ∧
      (∀ j, k ≤ j → (w.finishPoll true u.idx).buffer.read? j = s.buffer.read? j) := by
  obtain ⟨es, -, htrace, htx, hbw⟩ := hw
  have hbuf : (w.finishPoll true u.idx).buffer = u.buffer := hb
  refine ⟨es, hu.idx, congrArg (· ++ _) htrace, htx, ?_, fun j hj => ?_, fun j hj => ?_⟩
  · rw [hbw]
    refine List.ext_getElem? fun j => ?_
    by_cases hj : j < k
    · simp [drainedWrites, hj, show j < s.cap.toNat by omega, hd j hj]
    · have hnone : (d.take s.cap.toNat)[j]? = none := List.getElem?_eq_none (by rw [List.length_take]; omega)
      simp [drainedWrites, hj, hnone]
  · rw [hbuf, hu.buffer, if_pos hj, hd j hj]
  · rw [hbuf, hu.buffer, if_neg (Nat.not_lt.2 hj)]

end

/-! The chip under E-RXFIFO -/

theorem reads_read_of_ne {a b : Addr} (v : Byte) (hab : a ≠ b) : (ChipAct.txn (.r a v)).reads b = none := if_neg hab

theorem reads_read_self (a : Addr) (v : Byte) : (ChipAct.txn (.r a v)).reads a = some v := if_pos rfl

/-- Only a transaction reads a register. -/
theorem reads_of_no_txn {x : ChipAct} (a : Addr) (h : ∀ t, x ≠ .txn t) : x.reads a = none := by
  cases x with
  | txn t => exact absurd rfl (h t)
  | receive frame => rfl
  | own => rfl
  | reset => rfl

section
variable {s : State} {d : List Byte} {h : ChipRun} {r : Nat → Nat}

/-- Between two transactions of the run the chip sees none. -/
theorem chipOf_between {j i : Nat} (hc : h.chipOf s r) (hl : r j < i) (hr : i < r (j + 1)) (t : Txn) :
    h.act i ≠ .txn t := by
  intro hact
  have hmono := chipOf_strictMono hc
  obtain ⟨l, rfl⟩ := chipOf_only hc ((hmono.monotone (Nat.zero_le j)).trans hl.le) hact
  rw [hmono.lt_iff_lt] at hl hr
  omega

variable (hal : s.alone = true) (hs : s.seq = .p1) (hi : s.idx = 0) (hpr : flagSet s.cfg .pr (s.answerAt 1) = true)
  (hc : h.chipOf s r) (hrx : h.eRxFifo s.cfg) (hprAddr : s.cfg.flagPr.addr ≠ s.cfg.addrFifo)
  (hfneAddr : s.cfg.flagFne.addr ≠ s.cfg.addrFifo) (hd : (h.view (r 0)).fifo = d)
  (hview : ∀ i, r 0 ≤ i → i ≤ r (2 * s.cap.toNat + 1) → (h.view i).mode = some .receive ∧ h.oneFrame s.cfg i ∧
    ((h.act i).reads s.cfg.addrFifo = none → (h.view (i + 1)).fifo = (h.view i).fifo))

include hc hview in
/-- An act of the drain that does not read the FIFO leaves it. -/
theorem fifo_kept {j i : Nat} (hl : r j ≤ i) (hr : i ≤ r (j + 1)) (hj : j ≤ 2 * s.cap.toNat)
    (hread : (h.act i).reads s.cfg.addrFifo = none) : (h.view (i + 1)).fifo = (h.view i).fifo := by
  have hmono := (chipOf_strictMono hc).monotone
  exact (hview i ((hmono (Nat.zero_le j)).trans hl) (hr.trans (hmono (by omega)))).2.2 hread

include hc hview in
/-- From one transaction of the drain to the next the FIFO stays as it is (U13). -/
theorem fifo_between {j : Nat} (hj : j ≤ 2 * s.cap.toNat) : (h.view (r (j + 1))).fifo = (h.view (r j + 1)).fifo := by
  have hnext : r j + 1 ≤ r (j + 1) := chipOf_strictMono hc (Nat.lt_succ_self j)
  have hkept : ∀ i, r j + 1 ≤ i → i ≤ r (j + 1) → (h.view i).fifo = (h.view (r j + 1)).fifo := by
    intro i hl
    induction i, hl using Nat.le_induction with
    | base => exact fun _ => rfl
    | succ i hl ih =>
      intro hr
      rw [← ih (by omega)]
      have hread := reads_of_no_txn s.cfg.addrFifo (chipOf_between (j := j) hc hl (by omega))
      exact fifo_kept (j := j) hc hview (by omega) (by omega) hj hread
  exact hkept _ hnext le_rfl

include hal hs hi hpr hc hprAddr hd hview in
/-- The read of payload ready leaves the frame in the FIFO. -/
theorem fifo_after_pr : (h.view (r 0 + 1)).fifo = d := by
  obtain ⟨u, hrun, hu⟩ := run_drained hal hs hi hpr 0 (Nat.zero_le _) fun j hj => absurd hj (Nat.not_lt_zero j)
  have hact : h.act (r 0) = .txn (.r s.cfg.flagPr.addr (s.answerAt 1)) := chipOf_act hc hrun hu.traced.pollLoop rfl
  rw [← hd]
  exact fifo_kept (j := 0) hc hview le_rfl ((chipOf_strictMono hc).monotone (Nat.zero_le 1)) (Nat.zero_le _)
    (hact ▸ reads_read_of_ne _ hprAddr)

include hal hs hi hpr hc hrx hfneAddr hview in
/-- Under E-RXFIFO the read of FIFO-not-empty finds whether a byte is left, and leaves the FIFO (R65). -/
theorem fifo_looked {k : Nat} (hk : k < s.cap.toNat)
    (hf : ∀ j, j < k → flagSet s.cfg .fne (s.answerAt (4 * j + 3)) = true)
    (hleft : (h.view (r (2 * k) + 1)).fifo = d.drop k) :
    (flagSet s.cfg .fne (s.answerAt (4 * k + 3)) = true ↔ k < d.length) ∧
      (h.view (r (2 * k + 1) + 1)).fifo = d.drop k := by
  obtain ⟨u, hrun, hu⟩ := run_drained hal hs hi hpr k hk.le hf
  obtain ⟨t, hrun', ht⟩ := run_looked hrun hu hk
  have hact : h.act (r (2 * k + 1)) = .txn (pollEmptyTxn k s) :=
    chipOf_act hc hrun' ht (by rw [← length_pollTxns k s, List.getElem?_concat_length])
  have hhere : (h.view (r (2 * k + 1))).fifo = d.drop k := (fifo_between hc hview (by omega)).trans hleft
  have hmono := (chipOf_strictMono hc).monotone
  obtain ⟨hmode, hframe, hkept⟩ := hview (r (2 * k + 1)) (hmono (Nat.zero_le _)) (hmono (by omega))
  obtain ⟨-, hfne, -⟩ := hrx (r (2 * k + 1)) (s.answerAt (4 * k + 3)) hmode hframe
  refine ⟨?_, (hkept (hact ▸ reads_read_of_ne _ hfneAddr)).trans hhere⟩
  rw [hfne (hact ▸ reads_read_self _ _), hhere, ne_eq, List.drop_eq_nil_iff, not_le]

include hal hs hi hpr hc hrx hview in
/-- Under E-RXFIFO the read of the FIFO takes its oldest byte (R65). -/
theorem fifo_popped {k : Nat} (hk : k < s.cap.toNat) (hkd : k < d.length)
    (hf : ∀ j, j < k + 1 → flagSet s.cfg .fne (s.answerAt (4 * j + 3)) = true)
    (hleft : (h.view (r (2 * k + 1) + 1)).fifo = d.drop k) :
    d[k]? = some (s.answerAt (4 * k + 5)) ∧ (h.view (r (2 * (k + 1)) + 1)).fifo = d.drop (k + 1) := by
  obtain ⟨u, hrun, hu⟩ := run_drained hal hs hi hpr (k + 1) hk hf
  have hlen : (pollTxns k s ++ [pollEmptyTxn k s]).length = 2 * (k + 1) := by
    rw [List.length_append, length_pollTxns]
    rfl
  have hact : h.act (r (2 * (k + 1))) = .txn (.r s.cfg.addrFifo (s.answerAt (4 * k + 5))) :=
    chipOf_act hc hrun hu.traced.pollLoop (by rw [pollTxns_succ, ← hlen, List.getElem?_concat_length])
  have hhere : (h.view (r (2 * (k + 1)))).fifo = d[k] :: d.drop (k + 1) := by
    rw [← List.drop_eq_getElem_cons hkd, ← hleft]
    exact fifo_between (j := 2 * k + 1) hc hview (by omega)
  have hmono := (chipOf_strictMono hc).monotone
  obtain ⟨hmode, hframe, -⟩ := hview (r (2 * (k + 1))) (hmono (Nat.zero_le _)) (hmono (by omega))
  obtain ⟨-, -, hpop⟩ := hrx (r (2 * (k + 1))) (s.answerAt (4 * k + 5)) hmode hframe
  obtain ⟨hbyte, hrest⟩ := hpop _ _ (hact ▸ reads_read_self _ _) hhere
  exact ⟨by rw [hbyte, List.getElem?_eq_getElem hkd], hrest⟩

include hal hs hi hpr hc hrx hprAddr hfneAddr hd hview in
/-- Under E-RXFIFO the first `k` answers are the frame's bytes, and the FIFO then holds the others. -/
theorem fifo_drained (k : Nat) (hk : k ≤ min d.length s.cap.toNat) :
    (∀ j, j < k → flagSet s.cfg .fne (s.answerAt (4 * j + 3)) = true ∧ d[j]? = some (s.answerAt (4 * j + 5))) ∧
      (h.view (r (2 * k) + 1)).fifo = d.drop k := by
  induction k with
  | zero => exact ⟨fun j hj => absurd hj (Nat.not_lt_zero j), fifo_after_pr hal hs hi hpr hc hprAddr hd hview⟩
  | succ k ih =>
    obtain ⟨hbytes, hleft⟩ := ih (by omega)
    obtain ⟨hflag, hleft'⟩ :=
      fifo_looked hal hs hi hpr hc hrx hfneAddr hview (by omega) (fun j hj => (hbytes j hj).1) hleft
    have hset := hflag.2 (by omega)
    obtain ⟨hbyte, hrest⟩ := fifo_popped hal hs hi hpr hc hrx hview (by omega) (by omega)
      (Nat.forall_lt_succ_right.2 ⟨fun j hj => (hbytes j hj).1, hset⟩) hleft'
    exact ⟨Nat.forall_lt_succ_right.2 ⟨hbytes, hset, hbyte⟩, hrest⟩

include hal hs hi hpr hc hrx hprAddr hfneAddr hd hview in
/-- Under E-RXFIFO the answers to come drain the frame in the FIFO. -/
theorem drains_of_eRxFifo : s.drains d s.cap.toNat ∧
    (h.view (r (2 * min d.length s.cap.toNat + (if d.length < s.cap.toNat then 1 else 0)) + 1)).fifo =
      d.drop (min d.length s.cap.toNat) := by
  obtain ⟨hbytes, hleft⟩ := fifo_drained hal hs hi hpr hc hrx hprAddr hfneAddr hd hview _ le_rfl
  by_cases hq : d.length < s.cap.toNat
  · rw [if_pos hq]
    rw [Nat.min_eq_left hq.le] at hbytes hleft ⊢
    obtain ⟨hflag, hleft'⟩ :=
      fifo_looked hal hs hi hpr hc hrx hfneAddr hview hq (fun j hj => (hbytes j hj).1) hleft
    refine ⟨⟨hpr, ?_, fun _ => ?_⟩, hleft'⟩
    · rwa [Nat.min_eq_left hq.le]
    · exact Bool.eq_false_iff.2 fun hset => Nat.lt_irrefl _ (hflag.1 hset)
  · rw [if_neg hq]
    exact ⟨⟨hpr, hbytes, fun hlt => absurd hlt hq⟩, hleft⟩

end

/-- Settles O56: the drain by induction on its bytes, its answers under E-RXFIFO by induction beside the FIFO's bytes. -/
theorem pollDeliversTheFrame : Obligations.PollDeliversTheFrame := by
  intro s d h hs hi
  refine ⟨fun hdr => ?delivers, fun h' r hc hrx hprAddr hfneAddr hd hpr hview =>
    drains_of_eRxFifo h hs hi hpr hc hrx hprAddr hfneAddr hd hview⟩
  obtain ⟨hpr, hbytes, hempty⟩ := hdr
  obtain ⟨k, hk⟩ : ∃ k, k = min d.length s.cap.toNat := ⟨_, rfl⟩
  rw [← hk] at hbytes ⊢
  obtain ⟨u, hrun, hu⟩ := run_drained h hs hi hpr k (by omega) fun j hj => (hbytes j hj).1
  have hd := fun j hj => (hbytes j hj).2
  by_cases hq : d.length < s.cap.toNat
  · obtain rfl : k = d.length := by omega
    have hlast : step u.pollLoop = .next (u.looked.finishPoll true u.idx) := by
      rw [step_pollLoop hu.alone (hu.room hq), hu.fne (hempty hq), if_neg Bool.false_ne_true]
    obtain ⟨es, hes⟩ := hu.delivers hk hd hu.traced_looked rfl
    rw [if_pos hq, if_pos hq]
    exact ⟨_, es, by rw [run_add 1 hrun, run_succ_of_next hlast]; rfl, rfl, rfl, rfl, hes⟩
  · have hfull : u.pollLoop = u.finishPoll true u.idx := State.pollLoop_of_full (by rw [hu.idx, hu.cap]; omega)
    obtain ⟨es, hes⟩ := hu.delivers hk hd ((List.append_nil (pollTxns k s)).symm ▸ hu.traced) rfl
    rw [if_neg hq, if_neg hq]
    exact ⟨_, es, hfull ▸ hrun, rfl, rfl, rfl, hes⟩

end Sys2Proof.Machine

/-! Encodings (30_encoding.md): the address byte's fields, the decoder of each port against the encoder, and the words that
are refused. -/

namespace Sys2Proof.Machine

/-! The address byte and the brackets (R81 to R85, R97) -/

/-- Every byte is the address byte of its two fields, so nothing of byte 0 is lost in decoding. -/
theorem addrByte_fields (b : Byte) : addrByte (writeMarker b) (addrField b) = b := by
  revert b
  decide

theorem addrByte_eq_shift (w : Bool) (a : Addr) :
    addrByte w a = (BitVec.setWidth 8 (BitVec.ofBool w) <<< 7) ||| BitVec.setWidth 8 a := by
  cases w <;> rfl

/-- Settles O2: the byte as R85 writes it, and its fields by `writeMarker_addrByte` and `addrField_addrByte`. -/
theorem addressByteFields : Obligations.AddressByteFields :=
  ⟨fun w a => ⟨addrByte_eq_shift w a, writeMarker_addrByte w a, addrField_addrByte w a⟩,
    fun _ _ _ _ _ => ⟨rfl, rfl, rfl⟩⟩

theorem decodeBracket_write (a : Addr) (v : Byte) : decodeBracket [addrByte true a, v] = .ok (.w a v) :=
  decodeBracket_burst a [v] (by simp)

theorem decodeBracket_read (a : Addr) (d : Byte) : decodeBracket [addrByte false a, d] = .ok (.r a d) := by
  simp [decodeBracket, writeMarker_addrByte, addrField_addrByte]

theorem burstOk_iff {data : List Byte} : burstOk data = true ↔ data.length ≤ 255 := decide_eq_true_iff

theorem decodeBracket_burst_too_long (a : Addr) {data : List Byte} (h : 255 < data.length) :
    decodeBracket (addrByte true a :: data) = .error .burstTooLong := by
  have hb : ¬burstOk data = true := mt burstOk_iff.1 (Nat.not_le_of_lt h)
  match data with
  | [] | [_] => simp at h
  | b :: c :: ds => simp [decodeBracket, writeMarker_addrByte, hb]

theorem decodeBracket_read_not_two {t : Byte} {ts : List Byte} (hm : writeMarker t = false) (h : ts.length ≠ 1) :
    decodeBracket (t :: ts) = .error .readNotTwoBytes := by
  match ts with
  | [] | _ :: _ :: _ => simp [decodeBracket, hm]
  | [d] => exact absurd rfl h

/-- R97 read backwards: a bracket that decodes is a burst within its bound, or an R frame of two bytes. -/
theorem decodeBracket_cases {t : Byte} {ts : List Byte} {i : Instr} (h : decodeBracket (t :: ts) = .ok i) :
    (∃ a, t = addrByte true a ∧ ts.length ≤ 255 ∧ i = burstFrame a ts) ∨
      ∃ a d, t = addrByte false a ∧ ts = [d] ∧ i = .r a d := by
  have ht := (addrByte_fields t).symm
  cases hm : writeMarker t with
  | true =>
    rw [hm] at ht
    have hlen : ts.length ≤ 255 := by
      by_contra hlong
      rw [ht, decodeBracket_burst_too_long _ (Nat.lt_of_not_le hlong)] at h
      cases h
    rw [ht, decodeBracket_burst _ _ hlen] at h
    exact .inl ⟨_, ht, hlen, (Except.ok.inj h).symm⟩
  | false =>
    rw [hm] at ht
    have hlen : ts.length = 1 := by
      by_contra hne
      rw [decodeBracket_read_not_two hm hne] at h
      cases h
    obtain ⟨d, rfl⟩ := List.length_eq_one_iff.1 hlen
    rw [ht, decodeBracket_read] at h
    exact .inr ⟨_, d, ht, rfl, (Except.ok.inj h).symm⟩

/-! The burst as a frame (R84) -/

theorem wf_burstFrame (a : Addr) {data : List Byte} (h : data.length ≤ 255) : (burstFrame a data).wf = true := by
  match data with
  | [] | [_] => rfl
  | _ :: _ :: _ => exact burstOk_iff.2 h

theorem isFrame_burstFrame (a : Addr) (data : List Byte) : isFrame (burstFrame a data) = true := by
  match data with
  | [] | [_] | _ :: _ :: _ => rfl

theorem encode_burstFrame (p : Params) (buf : List Byte) (a : Addr) (data : List Byte) :
    encode p buf (burstFrame a data) = .bracket (addrByte true a :: data) := by
  match data with
  | [] | [_] | _ :: _ :: _ => rfl

/-- Settles O4, by what a bracket that decodes can be. -/
theorem decodedBracketEncodesBack : Obligations.DecodedBracketEncodesBack := by
  intro p data ts i h
  cases ts with
  | nil => cases h
  | cons t ts =>
    obtain ⟨a, rfl, hlen, rfl⟩ | ⟨a, d, rfl, rfl, rfl⟩ := decodeBracket_cases h
    · exact ⟨wf_burstFrame a hlen, isFrame_burstFrame a ts, encode_burstFrame p data a ts⟩
    · exact ⟨rfl, rfl, rfl⟩

/-! The commands (R91, R92; log 6) -/

/-- INIT's length byte holds `syncLength - 1`, and the sync bytes are all the bytes that are left. -/
theorem decodeInit_operands {len : Nat} {val : List Byte} (h : initOk len val = true) (tol rxLen : Byte) :
    decodeInit (BitVec.ofNat 8 (len - 1) :: tol :: rxLen :: val) = .ok (.init len tol val rxLen) := by
  obtain ⟨h1, h8, hval⟩ := initOk_iff.1 h
  have hlen : (BitVec.ofNat 8 (len - 1)).toNat + 1 = len := by
    rw [BitVec.toNat_ofNat]
    omega
  rw [decodeInit, hlen, List.take_of_length_le hval.le]

theorem decodeTx_operands (len : Byte) (suppress : Bool) :
    decodeTx [len, if suppress then 1 else 0] = .ok (.tx len suppress) := by
  cases suppress <;> rfl

/-- Settles O3, by the constructor: a frame by its bracket, a command by its operand bytes. -/
theorem encodedInstructionDecodesBack : Obligations.EncodedInstructionDecodesBack := by
  intro p data i hw
  cases i with
  | w | wreg | setmode | clrfifo => exact decodeBracket_write _ _
  | r | rreg | rflag => exact decodeBracket_read _ _
  | bw a ds => exact decodeBracket_burst a ds (burstOk_iff.1 hw)
  | fifowr n =>
    have hn := n.isLt
    exact decodeBracket_burst _ _ ((List.length_take_le _ _).trans (by omega))
  | init len tol val rxLen => exact decodeInit_operands hw tol rxLen
  | tx len suppress => exact decodeTx_operands len suppress
  | poll | reserved => rfl

/-- Settles O1, word by word. -/
theorem writtenOutWordsDecode : Obligations.WrittenOutWordsDecode := by
  refine ⟨?w, ?r, ?emptyBurst, ?burst, ?reserved, ?init, ?poll, ?tx⟩
  case w | r | emptyBurst | burst | reserved | init | poll | tx => rfl

theorem decodeCommand_not_two_bits {c : Byte} (h : 4 ≤ c.toNat) (ops : List Byte) :
    decodeCommand (c :: ops) = .error .codeNotTwoBits := by
  have hne (k : Byte) (hk : k.toNat < 4) : c ≠ k := by
    rintro rfl
    omega
  rw [decodeCommand, if_neg (hne _ (by decide)), if_neg (hne _ (by decide)), if_neg (hne _ (by decide)),
    if_neg (hne _ (by decide))]

/-- The command port gives no frame. -/
theorem isFrame_of_decode_command {bytes : List Byte} {i : Instr} (h : decode (.command bytes) = .ok i) :
    isFrame i = false := by
  cases bytes with
  | nil => cases h
  | cons code ops =>
    simp only [decode, decodeCommand, decodeInit, decodePoll, decodeTx] at h
    repeat' split at h
    all_goals cases h <;> rfl

/-! Words the port refuses, and words placed for fetching -/

theorem step_issue_malformed {s : State} {w : PortWord} {rest : List HostMove} {e : DecodeError}
    (hh : s.host = .issue w :: rest) (hd : decode w = .error e) : step s = .refused (.malformedWord e) := by
  rw [step_issue hh, issueWord, hd]

/-- Settles O5, clause by clause. -/
theorem malformedWordsAreRefused : Obligations.MalformedWordsAreRefused :=
  ⟨rfl, fun _ _ => decodeBracket_read_not_two, fun _ ops h => decodeCommand_not_two_bits h ops,
    fun _ _ _ _ => step_issue_malformed⟩

/-- A command is run by the step that takes it, whether the master is busy or not (R90). -/
theorem step_issue_command {s : State} {bytes : List Byte} {rest : List HostMove} {i : Instr}
    (hh : s.host = .issue (.command bytes) :: rest) (hd : decode (.command bytes) = .ok i) :
    step s = exec i { s with host := rest } := by
  rw [step_issue hh, issueWord_of_decode hd, isFrame_of_decode_command hd, if_neg Bool.false_ne_true]

/-- Settles O8: the placed word is the host's next move before an idle master with the bus granted. -/
theorem placedTableWordRunsNext : Obligations.PlacedTableWordRunsNext := by
  intro s nbits w i h
  have hd : decode (tableWord nbits w) = .ok i := by
    rw [decodeTableWord] at h
    split at h
    · next hok => rw [hok, Option.some.inj h]
    · cases h
  have hidle : ¬(s.withFetchWord nbits w).seq ≠ .idle := not_not.2 rfl
  have hfree : ¬(s.withFetchWord nbits w).busHeld = true := by simp [State.withFetchWord, State.busHeld_placeWord]
  rw [step_issue (rest := s.host) rfl, issueWord_of_decode hd, if_neg hidle, if_neg hfree, ite_self]

/-! Starts that are not accepted (R94, R95) -/

theorem exec_start_busy {i : Instr} {s : State} (hi : isStart i = true) (hs : s.seq ≠ .idle) :
    exec i s = .fault .cmdWhileBusy := by
  cases i with
  | init len tol val rxLen => rw [exec, execInit, if_pos hs]
  | poll cap => rw [exec, execPoll, if_pos hs]
  | tx len suppress => rw [exec, execTx, if_pos hs]
  | _ => cases hi

/-- Settles O20: every Start checks the label first, by exec and by the step that takes it. -/
theorem startWhileBusyFaults : Obligations.StartWhileBusyFaults := by
  intro s hs
  refine ⟨fun _ _ _ _ => exec_start_busy rfl hs, fun _ => exec_start_busy rfl hs, fun _ _ => exec_start_busy rfl hs,
    fun bytes rest i hh hd hne => ?_⟩
  have hst : isStart i = true := by
    obtain hf | hst | hres := decode_level hd
    · rw [isFrame_of_decode_command hd] at hf; cases hf
    · exact hst
    · exact absurd hres hne
  rw [step_issue_command hh hd]
  exact exec_start_busy hst hs

/-- Settles O21: code 00 decodes whatever follows it and is refused; INIT's operand check fails on each disjunct. -/
theorem startsOutsideTheTypesAreRefused : Obligations.StartsOutsideTheTypesAreRefused := by
  refine ⟨fun s => ⟨rfl, fun ops rest hh => step_issue_command hh rfl⟩, fun len tol val rxLen s hs h => ?_⟩
  have ho : ¬initOk len val = true := by
    rw [initOk_iff]
    omega
  rw [exec, execInit, if_neg (not_not.2 hs), if_neg ho]

end Sys2Proof.Machine

/-! The bursts BW and FIFOWR (R83, R116): what a BW frame sends, and what both leave unchanged. -/

namespace Sys2Proof.Machine

/-- Settles O13: the burst's bracket in closed form, within the bound of R83 and beyond it. -/
theorem burstFrameSendsItsData : Obligations.BurstFrameSendsItsData := by
  refine fun a data s => ⟨fun hlen hb => ?_, fun hlong => ?_⟩
  · rw [exec, execBw, if_pos (burstOk_iff.2 hlen), withBus_granted _ hb, State.burstFrame_eq]
  · rw [exec, execBw, if_neg (mt burstOk_iff.1 (Nat.not_le_of_lt hlong))]

/-- `t` is `s` but for what a burst to `a` may change: the bus signals, `idx`, the ledger of register `a` and of the FIFO,
and what a bracket takes and leaves. -/
def LeftByBurst (a : Addr) (s t : State) : Prop :=
  sameElsewhere s t ∧ t.rxd = s.rxd ∧ t.gMode = s.gMode ∧ ∀ b : Nat, b ≠ a.toNat → t.regs.read? b = s.regs.read? b

theorem leftByBurst_hold (a : Addr) (s : State) : LeftByBurst a s s.hold :=
  ⟨by simp [sameElsewhere], rfl, rfl, fun _ _ => rfl⟩

/-- A burst writes its one register or, when empty, none (R56). -/
theorem leftByBurst_sentBurst (a : Addr) (data : List Byte) (s : State) : LeftByBurst a s (s.sentBurst a data) := by
  refine ⟨by simp [sameElsewhere, State.sentBurst, State.afterBracket], rfl, rfl, fun b hb => ?_⟩
  obtain hr | ⟨v, hr⟩ := burstRegs_cases a data s.regs <;> rw [State.sentBurst, hr]
  exact Memory.read?_write_other _ _ _ _ hb

theorem leftByBurst_sentBuffer (n : Nat) (s : State) : LeftByBurst s.cfg.addrFifo s (s.sentBuffer n) := by
  refine ⟨by simp [sameElsewhere, State.sentBuffer, State.afterBracket], rfl, rfl, fun b hb => ?_⟩
  cases n with
  | zero => rfl
  | succ n => exact Memory.read?_write_other _ _ _ _ hb

/-- What a meaning on the bus answers is the hold or its transaction. -/
theorem withBus_next {s t : State} {f : State → State} (h : withBus s f = .next t) : t = s.hold ∨ t = f s := by
  obtain ⟨-, hf⟩ | ⟨-, hf⟩ := withBus_cases s f <;> rw [hf] at h <;> cases h
  · exact .inl rfl
  · exact .inr rfl

/-- Settles O24: on a held bus the master waits, on a granted one it sends the burst. -/
theorem burstsLeaveTheRest : Obligations.BurstsLeaveTheRest := by
  intro i a s t hi h
  obtain ⟨data, rfl⟩ | ⟨n, rfl, rfl⟩ := hi
  · rw [exec, execBw] at h
    split at h
    · obtain rfl | rfl := withBus_next h
      · exact leftByBurst_hold a s
      · exact State.burstFrame_eq a data s ▸ leftByBurst_sentBurst a data s
    · cases h
  · obtain rfl | rfl := withBus_next h
    · exact leftByBurst_hold _ s
    · exact State.fifoFrame_eq n s ▸ leftByBurst_sentBuffer n.toNat s

end Sys2Proof.Machine

/-! Register access (40_register_access.md): the transactions of WREG, FIFOWR and RFLAG, and what writes and reads leave
unchanged. -/

namespace Sys2Proof.Machine

/-! The transactions on a granted bus -/

theorem withBus_writeFrame (a : Addr) (v : Byte) {s : State} (hb : s.busHeld = false) :
    withBus s (State.writeFrame a v) = .next (s.wrote a v) := by
  rw [withBus_granted _ hb, State.writeFrame_eq]

theorem withBus_readFrame (a : Addr) (d : Byte) {s : State} (hb : s.busHeld = false) :
    withBus s (State.readFrame a d) = .next (s.didRead a d) := by
  rw [withBus_granted _ hb, State.readFrame_eq]

/-- Settles O10: WREG and W run the same bracket, which is R110's transaction. -/
theorem writeTransaction : Obligations.WriteTransaction := fun a v _ hb =>
  ⟨withBus_writeFrame a v hb, withBus_writeFrame a v hb⟩

/-- Settles O12: the bracket of FIFOWR in closed form (R116). -/
theorem fifoBurstSendsTheBuffer : Obligations.FifoBurstSendsTheBuffer := by
  intro n s hb
  rw [exec, execFifowr, withBus_granted _ hb, State.fifoFrame_eq]

/-- RFLAG's Bool after a read is the mask test of the byte that the read's second exchange returned (R113, R119). -/
theorem flagResult_didRead (f : Flag) (a : Addr) (d : Byte) (s : State) :
    (s.didRead a d).flagResult f = flagSet s.cfg f (s.answerAt 1) := rfl

/-- Settles O16: RFLAG is one read of the flag's register, and its Bool the mask test of the byte read. -/
theorem rflagTestsTheMask : Obligations.RflagTestsTheMask := by
  refine fun f s hb => ⟨withBus_readFrame _ _ hb, ?_⟩
  rw [flagResult_didRead, flagSet_iff]

/-! What a write leaves unchanged -/

/-- `t` is `s` but for what a write to `a` may change: the bus signals, `g.mode`, the ledger of register `a` and of the
FIFO, and what a bracket takes and leaves. -/
def LeftByWrite (a : Addr) (s t : State) : Prop :=
  sameElsewhere s t ∧ t.idx = s.idx ∧ t.rxd = s.rxd ∧ ∀ b : Nat, b ≠ a.toNat → t.regs.read? b = s.regs.read? b

theorem leftByWrite_hold (a : Addr) (s : State) : LeftByWrite a s s.hold :=
  ⟨by simp [sameElsewhere], rfl, rfl, fun _ _ => rfl⟩

theorem leftByWrite_wrote (a : Addr) (v : Byte) (s : State) : LeftByWrite a s (s.wrote a v) :=
  ⟨by simp [sameElsewhere, State.wrote, State.afterBracket], rfl, rfl,
    fun b hb => Memory.read?_write_other _ _ b _ hb⟩

/-- W, WREG and CLRFIFO, each one write bracket, leave `g.mode` too. -/
theorem leftByWrite_of_writeFrame {a : Addr} {v : Byte} {s t : State} (h : withBus s (State.writeFrame a v) = .next t) :
    LeftByWrite a s t ∧ t.gMode = s.gMode := by
  obtain rfl | rfl := withBus_next h
  · exact ⟨leftByWrite_hold a s, rfl⟩
  · exact ⟨State.writeFrame_eq a v s ▸ leftByWrite_wrote a v s, rfl⟩

/-- SETMODE is a write of the mode register that sets `g.mode` besides (R130). -/
theorem leftByWrite_of_selectMode {m : Mode} {s t : State} (h : withBus s (State.selectMode m) = .next t) :
    LeftByWrite s.cfg.addrMode s t := by
  obtain rfl | rfl := withBus_next h
  · exact leftByWrite_hold _ s
  · rw [State.selectMode, State.writeFrame_eq]
    exact leftByWrite_wrote s.cfg.addrMode (s.cfg.modeVal m) s

/-- Settles O22: three of the instructions are a write bracket, and SETMODE is one that sets `g.mode` besides. -/
theorem writesLeaveTheRest : Obligations.WritesLeaveTheRest := by
  intro i a s t hi h
  have hframe : LeftByWrite a s t ∧ ((∀ m, i ≠ .setmode m) → t.gMode = s.gMode) := by
    obtain ⟨v, rfl⟩ | ⟨v, rfl⟩ | ⟨rfl, rfl⟩ | ⟨m, rfl, rfl⟩ := hi
    · exact (leftByWrite_of_writeFrame h).imp_right fun hg _ => hg
    · exact (leftByWrite_of_writeFrame h).imp_right fun hg _ => hg
    · exact (leftByWrite_of_writeFrame h).imp_right fun hg _ => hg
    · exact ⟨leftByWrite_of_selectMode h, fun hne => absurd rfl (hne m)⟩
  obtain ⟨⟨hsame, hidx, hrxd, hregs⟩, hmode⟩ := hframe
  exact ⟨hsame, hidx, hrxd, hmode, hregs⟩

/-! What a read leaves unchanged -/

/-- `t` is `s` but for what a read may change: the bus signals, `rxd`, the record of what was taken from the FIFO, and what
a bracket takes and leaves. -/
def LeftByRead (s t : State) : Prop :=
  sameElsewhere s t ∧ t.idx = s.idx ∧ t.gMode = s.gMode ∧ t.fifoIn = s.fifoIn ∧
    ∀ b : Nat, t.regs.read? b = s.regs.read? b

theorem leftByRead_hold (s : State) : LeftByRead s s.hold :=
  ⟨by simp [sameElsewhere], rfl, rfl, rfl, fun _ => rfl⟩

theorem leftByRead_didRead (a : Addr) (d : Byte) (s : State) : LeftByRead s (s.didRead a d) :=
  ⟨by simp [sameElsewhere, State.didRead, State.afterBracket], rfl, rfl, rfl, fun _ => rfl⟩

theorem leftByRead_of_readFrame {a : Addr} {d : Byte} {s t : State} (h : withBus s (State.readFrame a d) = .next t) :
    LeftByRead s t := by
  obtain rfl | rfl := withBus_next h
  · exact leftByRead_hold s
  · exact State.readFrame_eq a d s ▸ leftByRead_didRead a d s

/-- Settles O23: each of the three instructions is one read bracket. -/
theorem readsLeaveTheRest : Obligations.ReadsLeaveTheRest := by
  intro i s t hi h
  obtain ⟨a, d, rfl⟩ | ⟨a, rfl⟩ | ⟨f, rfl⟩ := hi
  · exact leftByRead_of_readFrame h
  · exact leftByRead_of_readFrame h
  · exact leftByRead_of_readFrame h

end Sys2Proof.Machine

/-! Mode control (41_mode_control.md): the writes of SETMODE and CLRFIFO, the transitions of the mode last written, and POLL,
which makes none. -/

namespace Sys2Proof.Machine

/-! The two writes -/

/-- Settles O14: the mode register's write, and then the ghost. -/
theorem setmodeWritesTheModeByte : Obligations.SetmodeWritesTheModeByte := by
  intro m s hb
  rw [exec, execSetmode, withBus_granted _ hb, State.selectMode, State.writeFrame_eq]

/-- R7 (f): the clearing register is not the FIFO, so its write there clears. -/
theorem isClear_clrAddr {p : Params} (h : p.fixedOk = true) : isClear p p.clrAddr p.clrVal = true := by
  have hne : p.clrAddr ≠ p.addrFifo := by
    intro he
    simp [Params.fixedOk, Params.fixedAddrs, he] at h
  simp [isClear, hne]

/-- A clearing write empties the record of the chip's FIFO (R41, R132; log 13). -/
theorem fifo_wrote_of_isClear {a : Addr} {v : Byte} {s : State} (h : isClear s.cfg a v = true) :
    (s.wrote a v).fifoIn = [] ∧ (s.wrote a v).fifoOut = [] :=
  ⟨if_pos h, if_pos h⟩

/-- Settles O15: the one write, which is a clearing write under R7 (f). -/
theorem clrfifoIsOneWrite : Obligations.ClrfifoIsOneWrite := fun _ hb =>
  ⟨withBus_writeFrame _ _ hb, fun hp => fifo_wrote_of_isClear (isClear_clrAddr hp)⟩

/-! The transitions of the mode last written -/

/-- The labels that select a mode, and the mode each selects (R134). -/
theorem microOp_setmode {l : Label} {s : State} {m : Mode} (h : microOp l s = .ok (.setmode m)) :
    (l = .i5 ∧ m = .receive) ∨ (l = .t1m ∧ m = .standby) ∨ (l = .t5m ∧ m = .transmit) ∨ (l = .t6m ∧ m = .standby) ∨
      (l = .t7m ∧ m = .receive) := by
  cases l with
  | i5 | t1m | t5m | t6m | t7m => cases h; simp
  | i2 k | i3v j | t6w | t7w =>
    simp only [microOp, microI2, microI3v, microRestore] at h
    split at h <;> cases h
  | _ => cases h

/-- What changes the mode last written (R34): a SETMODE, which sets it to its operand (R130), or a reset. -/
theorem gMode_step {s t : State} (h : step s = .next t) :
    t.gMode = s.gMode ∨ (∃ m, microOp s.seq s = .ok (.setmode m) ∧ t.gMode = .known m) ∨
      (s.resetNext = true ∧ t.gMode = .unknown) := by
  obtain ⟨rest, hq | hst | ⟨i, hm⟩ | ⟨hreset, hr⟩⟩ := step_cases h
  · exact .inl hq.gMode
  · exact .inl hst.gMode
  · rw [hm.followed.gMode]
    obtain ⟨-, hi, -⟩ := hm
    rw [microOp_host] at hi
    cases i with
    | setmode m => exact .inr (.inl ⟨m, hi, rfl⟩)
    | _ => exact .inl rfl
  · obtain ⟨-, -, -, -, -, -, -, -, -, -, hg, -⟩ := hr.master
    exact .inr (.inr ⟨hreset, hg⟩)

/-! The modes of R134's source column, from the invariant of the label -/

theorem gMode_of_t5m {s : State} (hl : s.labelOk = true) (hs : s.seq = .t5m) : s.gMode = .known .standby := by
  simp only [State.labelOk, hs, State.inMode, Bool.and_eq_true, beq_iff_eq] at hl
  obtain ⟨⟨⟨-, hg⟩, -⟩, -⟩ := hl
  exact hg

theorem gMode_of_t6m {s : State} (hl : s.labelOk = true) (hs : s.seq = .t6m) :
    s.suppress = true ∧ s.gMode = .known .transmit := by
  simp only [State.labelOk, hs, State.inMode, Bool.and_eq_true, beq_iff_eq] at hl
  obtain ⟨⟨⟨⟨-, hg⟩, hsup⟩, -⟩, -⟩ := hl
  exact ⟨hsup, hg⟩

theorem gMode_of_t7m {s : State} (hl : s.labelOk = true) (hs : s.seq = .t7m) :
    s.gMode = .known (if s.suppress then .standby else .transmit) := by
  simp only [State.labelOk, hs, State.inMode, Bool.and_eq_true, beq_iff_eq] at hl
  obtain ⟨-, hg⟩ := hl
  exact hg

/-- Settles O50: the label of a SETMODE gives the mode selected, and the label's invariant the mode it is selected from. -/
theorem modeTransitionsAreTheTables : Obligations.ModeTransitionsAreTheTables := by
  intro s t hinv h hne
  obtain ⟨-, hl, -, -⟩ := s.inv_iff.1 hinv
  obtain hsame | ⟨m, hm, ht⟩ | hreset := gMode_step h
  · exact absurd hsame hne
  · obtain ⟨hs, rfl⟩ | ⟨hs, rfl⟩ | ⟨hs, rfl⟩ | ⟨hs, rfl⟩ | ⟨hs, rfl⟩ := microOp_setmode hm
    · simp [hs, ht]
    · simp [hs, ht]
    · simp [hs, ht, gMode_of_t5m hl hs]
    · simp [hs, ht, gMode_of_t6m hl hs]
    · cases hsup : s.suppress <;> simp [hs, ht, gMode_of_t7m hl hs, hsup]
  · exact .inl hreset

/-! POLL reads only -/

/-- `t` comes after `s` by exactly one read: the chip's registers, what was pushed on its FIFO and the mode last written are
as they were. -/
structure OneRead (s t : State) : Prop where
  regs : t.regs = s.regs
  fifoIn : t.fifoIn = s.fifoIn
  gMode : t.gMode = s.gMode
  traced : ∃ a v ws, Traced s t [.r a v] ws

theorem oneRead_didRead (a : Addr) (d : Byte) (s : State) : OneRead s (s.didRead a d) :=
  ⟨rfl, rfl, rfl, a, s.answerAt 1, [], traced_didRead a d s⟩

section
variable {s u : State}

theorem OneRead.goto (h : OneRead s u) (l : Label) : OneRead s (u.goto l) :=
  ⟨h.regs, h.fifoIn, h.gMode, h.traced⟩

theorem OneRead.finishPoll (h : OneRead s u) (received : Bool) (n : Byte) : OneRead s (u.finishPoll received n) := by
  obtain ⟨a, v, ws, ht⟩ := h.traced
  exact ⟨h.regs, h.fifoIn, h.gMode, a, v, ws, ht.finishPoll received n⟩

theorem OneRead.pollLoop (h : OneRead s u) : OneRead s u.pollLoop := by
  unfold State.pollLoop
  split
  · exact h.finishPoll true u.idx
  · exact h.goto .p2

theorem OneRead.storeByte (h : OneRead s u) (b : Byte) : OneRead s (u.storeByte b) := by
  obtain ⟨a, v, ws, ht⟩ := h.traced
  have hstore : OneRead s { u.bufWr u.idx.toNat b with idx := u.idx + 1 } :=
    ⟨h.regs, h.fifoIn, h.gMode, a, v, _, ht.trans (traced_bufWr _ b _ u)⟩
  exact hstore.pollLoop

end

theorem seq_of_poll {s : State} (hl : s.labelOk = true) (hc : s.cmd = .poll) :
    s.seq = .p1 ∨ s.seq = .p2 ∨ s.seq = .p3 := by
  cases hq : s.seq with
  | p1 | p2 | p3 => simp
  | _ => simp [State.labelOk, hq, hc] at hl

/-- Each of POLL's labels is a read and what follows it (R166, R175). -/
theorem oneRead_step_poll {s t : State} (ha : s.alone = true) (hl : s.labelOk = true) (hc : s.cmd = .poll)
    (h : step s = .next t) : OneRead s t := by
  obtain hs | hs | hs := seq_of_poll hl hc
  · rw [step_p1 ha hs] at h
    cases h
    have hread := oneRead_didRead s.cfg.flagPr.addr s.cfg.dummy s
    split
    · exact hread.pollLoop
    · exact hread.finishPoll false 0
  · rw [step_p2 ha hs] at h
    cases h
    have hread := oneRead_didRead s.cfg.flagFne.addr s.cfg.dummy s
    split
    · exact hread.goto .p3
    · exact hread.finishPoll true s.idx
  · rw [step_p3 ha hs] at h
    cases h
    exact (oneRead_didRead s.cfg.addrFifo s.cfg.dummy s).storeByte _

/-- The transactions of the events that `Traced` names are those of the trace's new part. -/
theorem Traced.transactions_newEvents {s t : State} {ts : List Txn} {ws : List (Nat × Byte)} (h : Traced s t ts ws) :
    transactions (newEvents s t) = ts.map some := by
  obtain ⟨es, -, ht, htx, -⟩ := h
  rw [newEvents, ht, List.drop_left, htx]

/-- Settles O54: POLL's steps are `OneRead`. -/
theorem pollOnlyReads : Obligations.PollOnlyReads := by
  intro s t ha hs hc h
  obtain ⟨-, hl, -, -⟩ := s.inv_iff.1 hs
  obtain ⟨hregs, hfifo, hmode, a, v, _, htraced⟩ := oneRead_step_poll ha hl hc h
  exact ⟨hregs, hfifo, hmode, a, v, htraced.transactions_newEvents⟩

end Sys2Proof.Machine

/-! INIT (42_initialize.md): the liveness iterations, the sync-configuration write, and the whole command as one run. -/

namespace Sys2Proof.Machine

/-! The reads that a liveness loop can miss, and the sync-configuration write -/

/-- I1r's step for every byte read back (R147). -/
theorem step_i1r_cases {s : State} (h : s.alone = true) (hs : s.seq = .i1r) :
    step s = .next ((s.didRead s.cfg.addrScratch s.cfg.dummy).goto
      (if s.answerAt 1 = Config.sentinelA then .i1w2 else .i1w)) := by
  rw [step_alone_rreg (a := s.cfg.addrScratch) h (by simp [hs]) (hs ▸ rfl), hs, advance]
  simp only [sentinelRead_didRead]

/-- I1r2's step where the second sentinel is not read back: only its own loop is repeated (R147). -/
theorem step_i1r2_miss {s : State} (h : s.alone = true) (hs : s.seq = .i1r2) (ha : s.answerAt 1 ≠ Config.sentinelB) :
    step s = .next ((s.didRead s.cfg.addrScratch s.cfg.dummy).goto .i1w2) := by
  rw [step_alone_rreg (a := s.cfg.addrScratch) h (by simp [hs]) (hs ▸ rfl), hs, advance,
    if_neg (by rwa [sentinelRead_didRead])]

theorem gotoI2_zero (s : State) : s.gotoI2 0 = { s with seq := .i2 0, idx := 0 } :=
  if_pos (by rw [cfgLength_eq]; omega)

/-- Settles O26, label by label. -/
theorem livenessIterations : Obligations.LivenessIterations := fun s h =>
  ⟨step_i1w h, step_i1r_cases h, step_i1w2 h, step_i1r2_miss h,
    fun hs ha => by rw [step_i1r2 h hs ha, gotoI2_zero]⟩

theorem State.initLatched_iff (s : State) : s.initLatched = true ↔ 1 ≤ s.syncLen.toNat ∧ s.syncLen.toNat ≤ 8 := by
  simp [State.initLatched]

/-- I3c's step: the sync-configuration byte, then the first sync byte (R152). -/
theorem step_i3c {s : State} (h : s.alone = true) (hs : s.seq = .i3c) :
    step s =
      .next ((s.wrote s.cfg.addrSyncCfg (syncConfigByte s.cfg s.syncLen.toNat s.syncTol)).gotoI3v 0) := by
  rw [step_alone_wreg (a := s.cfg.addrSyncCfg) (v := syncConfigByte s.cfg s.syncLen.toNat s.syncTol) h (by simp [hs])
    (hs ▸ rfl), hs]
  rfl

/-- Settles O28: a latched length is at least 1, so the sync bytes follow. -/
theorem syncConfigurationWrite : Obligations.SyncConfigurationWrite := by
  intro s h hs hl
  obtain ⟨hpos, -⟩ := s.initLatched_iff.1 hl
  rw [step_i3c h hs]
  exact congrArg _ (gotoI3v_of_lt 0 hpos)

/-! The transactions of R156 and their number -/

theorem livenessTxns_zero (v : Byte) (k : Nat) (s : State) :
    livenessTxns v k 0 s = [.w s.cfg.addrScratch v, .r s.cfg.addrScratch (s.answerAt (k + 3))] := rfl

/-- The first iteration, and the others four exchanges later. -/
theorem livenessTxns_succ (v : Byte) (k n : Nat) (s : State) :
    livenessTxns v k (n + 1) s = livenessTxns v k 0 s ++ livenessTxns v (k + 4) n s := by
  have hk : ∀ j, k + 4 * (j + 1) = k + 4 + 4 * j := fun j => by omega
  rw [livenessTxns, List.range_succ_eq_map, List.flatMap_cons, List.flatMap_map]
  simp only [Nat.succ_eq_add_one, hk]
  rfl

theorem length_livenessTxns (v : Byte) (k n : Nat) (s : State) : (livenessTxns v k n s).length = 2 * (n + 1) := by
  induction n generalizing k with
  | zero => rfl
  | succ n ih =>
    rw [livenessTxns_succ, List.length_append, ih, livenessTxns_zero, List.length_cons, List.length_singleton]
    omega

theorem livenessAnswers_zero {v : Byte} {k : Nat} {s : State} (h : livenessAnswers v k 0 s) : s.answerAt (k + 3) = v :=
  h.2

/-- The first read misses, and the others' answers come four exchanges later. -/
theorem livenessAnswers_succ {v : Byte} {k n : Nat} {s : State} (h : livenessAnswers v k (n + 1) s) :
    s.answerAt (k + 3) ≠ v ∧ livenessAnswers v (k + 4) n s := by
  have hk : ∀ j, k + 4 * (j + 1) + 3 = k + 4 + 4 * j + 3 := fun j => by omega
  obtain ⟨hmiss, hhit⟩ := h
  exact ⟨hmiss 0 (by omega), fun j hj => hk j ▸ hmiss (j + 1) (by omega), hk n ▸ hhit⟩

/-- The writes of the sync bytes, each an address and its byte (R153). -/
def syncWrites (s : State) : List (Addr × Byte) :=
  (s.syncVal.toList.take s.syncLen.toNat).mapIdx fun i b => (syncValAddr s.cfg i, b)

/-- A list of register writes as transactions. -/
def writeTxns (ws : List (Addr × Byte)) : List Txn := ws.map fun e => .w e.1 e.2

/-- The two writes after the sync word (R154, R155). -/
def endTxns (s : State) : List Txn :=
  [.w s.cfg.addrFifoThr s.cfg.valFifoThr, .w s.cfg.addrMode s.cfg.valReceive]

theorem initTxns_eq (p q : Nat) (s : State) :
    initTxns p q s = livenessTxns Config.sentinelA 0 p s ++ livenessTxns Config.sentinelB (4 * (p + 1)) q s
      ++ writeTxns (cfgList s.cfg s.rxPlen)
      ++ [.w s.cfg.addrSyncCfg (syncConfigByte s.cfg s.syncLen.toNat s.syncTol)]
      ++ writeTxns (syncWrites s) ++ endTxns s := by
  have hsync : writeTxns (syncWrites s) =
      (s.syncVal.toList.take s.syncLen.toNat).mapIdx fun i b => .w (syncValAddr s.cfg i) b := by
    rw [writeTxns, syncWrites]
    exact List.ext_getElem? fun i => by simp [Function.comp_def]
  rw [hsync]
  rfl

theorem length_syncWrites {s : State} (h : s.syncLen.toNat ≤ 8) : (syncWrites s).length = s.syncLen.toNat := by
  simp [syncWrites, h]

/-- R156's count. -/
theorem length_initTxns (p q : Nat) {s : State} (h : s.syncLen.toNat ≤ 8) :
    (initTxns p q s).length = 2 * (p + 1) + 2 * (q + 1) + s.cfgLength + 1 + s.syncLen.toNat + 1 + 1 := by
  simp only [initTxns_eq, writeTxns, endTxns, List.length_append, length_livenessTxns, List.length_map,
    length_syncWrites h, State.cfgLength, List.length_cons, List.length_nil]

/-! What a run of INIT keeps -/

theorem State.answerAt_wrote (a : Addr) (v : Byte) (s : State) (k : Nat) :
    (s.wrote a v).answerAt k = s.answerAt (2 + k) :=
  State.answerAt_of_rx 2 rfl rfl k

theorem traced_wrote (a : Addr) (v : Byte) (s : State) : Traced s (s.wrote a v) [.w a v] [] :=
  ⟨_, traceOk_writeEvents a v s, rfl, transactions_writeEvents a v s, rfl⟩

/-- `u` is the INIT that ran alone from `s` once its transactions `ts` are done, one a step and two exchanges each, its
operands still latched. -/
structure InitRan (s : State) (ts : List Txn) (u : State) : Prop where
  ran : run ts.length s = .next u
  alone : u.alone = true
  cfg : u.cfg = s.cfg
  syncLen : u.syncLen = s.syncLen
  syncTol : u.syncTol = s.syncTol
  syncVal : u.syncVal = s.syncVal
  rxPlen : u.rxPlen = s.rxPlen
  answers : ∀ i, u.answerAt i = s.answerAt (2 * ts.length + i)
  traced : Traced s u ts []

theorem initRan_nil {s : State} (h : s.alone = true) : InitRan s [] s :=
  ⟨rfl, h, rfl, rfl, rfl, rfl, rfl, fun i => congrArg s.answerAt (Nat.zero_add i).symm, Traced.refl s⟩

theorem InitRan.trans {s u w : State} {ts ts' : List Txn} (h : InitRan s ts u) (k : InitRan u ts' w) :
    InitRan s (ts ++ ts') w where
  ran := by rw [List.length_append, run_add _ h.ran, k.ran]
  alone := k.alone
  cfg := k.cfg.trans h.cfg
  syncLen := k.syncLen.trans h.syncLen
  syncTol := k.syncTol.trans h.syncTol
  syncVal := k.syncVal.trans h.syncVal
  rxPlen := k.rxPlen.trans h.rxPlen
  answers i := by rw [k.answers, h.answers, List.length_append, Nat.mul_add, Nat.add_assoc]
  traced := h.traced.trans k.traced

section
variable {s u : State} {ts : List Txn} {a : Addr} {l : Label} {i : Byte}

/-- A step that writes a register and changes label and `idx` besides is one more transaction. -/
theorem InitRan.wrote {v : Byte} (h : InitRan s ts u)
    (hstep : step u = .next { u.wrote a v with seq := l, idx := i }) :
    InitRan s (ts ++ [.w a v]) { u.wrote a v with seq := l, idx := i } :=
  h.trans ⟨run_succ_of_next hstep, State.alone_congr h.alone rfl rfl rfl, rfl, rfl, rfl, rfl, rfl,
    State.answerAt_wrote a v u, traced_wrote a v u⟩

/-- So is a step that reads one. -/
theorem InitRan.didRead {d : Byte} (h : InitRan s ts u)
    (hstep : step u = .next { u.didRead a d with seq := l, idx := i }) :
    InitRan s (ts ++ [.r a (u.answerAt 1)]) { u.didRead a d with seq := l, idx := i } :=
  h.trans ⟨run_succ_of_next hstep, State.alone_didRead a d h.alone, rfl, rfl, rfl, rfl, rfl,
    State.answerAt_didRead a d u, traced_didRead a d u⟩

end

/-! The liveness loops -/

/-- A loop of R147: at `write` it lays the sentinel `v` on the scratch register, at `read` it reads it back, and it goes on
to `after` on a match, back to `write` on a mismatch. -/
structure LivenessLoop (v : Byte) (write read after : Label) : Prop where
  step_write : ∀ s : State, s.alone = true → s.seq = write →
    ∃ i, step s = .next { s.wrote s.cfg.addrScratch v with seq := read, idx := i }
  step_read : ∀ s : State, s.alone = true → s.seq = read →
    ∃ i, step s = .next { s.didRead s.cfg.addrScratch s.cfg.dummy with
      seq := if s.answerAt 1 = v then after else write
      idx := i }

theorem livenessLoopA : LivenessLoop Config.sentinelA .i1w .i1r .i1w2 where
  step_write s h hs := ⟨s.idx, step_i1w h hs⟩
  step_read s h hs := ⟨s.idx, step_i1r_cases h hs⟩

theorem livenessLoopB : LivenessLoop Config.sentinelB .i1w2 .i1r2 (.i2 0) where
  step_write s h hs := ⟨s.idx, step_i1w2 h hs⟩
  step_read s h hs := by
    split
    · next ha => exact ⟨0, by rw [step_i1r2 h hs ha, gotoI2_zero]⟩
    · next ha => exact ⟨s.idx, step_i1r2_miss h hs ha⟩

section
variable {s u : State} {ts : List Txn} {v : Byte} {write read after : Label}

/-- One iteration. -/
theorem InitRan.iteration (loop : LivenessLoop v write read after) (h : InitRan s ts u) (hs : u.seq = write) {k : Nat}
    (hk : 2 * ts.length = k) :
    ∃ w, InitRan s (ts ++ livenessTxns v k 0 s) w ∧ w.seq = if s.answerAt (k + 3) = v then after else write := by
  obtain ⟨i, hw⟩ := loop.step_write u h.alone hs
  have hwrote := h.wrote hw
  obtain ⟨j, hr⟩ := loop.step_read _ hwrote.alone rfl
  have hread := hwrote.didRead hr
  have hanswer : State.answerAt 1 { u.wrote u.cfg.addrScratch v with seq := read, idx := i } = s.answerAt (k + 3) := by
    rw [hwrote.answers, List.length_append, List.length_singleton, ← hk]
    congr 1
  rw [hanswer, hwrote.cfg, h.cfg, List.append_assoc] at hread
  exact ⟨_, hread, rfl⟩

/-- A whole loop, by induction on the iterations that miss. -/
theorem InitRan.liveness (loop : LivenessLoop v write read after) (h : InitRan s ts u) (hs : u.seq = write) {k n : Nat}
    (hk : 2 * ts.length = k) (ha : livenessAnswers v k n s) :
    ∃ w, InitRan s (ts ++ livenessTxns v k n s) w ∧ w.seq = after := by
  induction n generalizing ts u k with
  | zero =>
    obtain ⟨w, hw, hseq⟩ := h.iteration loop hs hk
    exact ⟨w, hw, by rw [hseq, if_pos (livenessAnswers_zero ha)]⟩
  | succ n ih =>
    obtain ⟨hmiss, hrest⟩ := livenessAnswers_succ ha
    obtain ⟨w, hw, hseq⟩ := h.iteration loop hs hk
    rw [if_neg hmiss] at hseq
    have hlen : 2 * (ts ++ livenessTxns v k 0 s).length = k + 4 := by
      rw [List.length_append, length_livenessTxns, ← hk]
      omega
    rw [livenessTxns_succ, ← List.append_assoc]
    exact ih hw hseq hlen hrest

end

/-! The configuration writes and the sync word -/

/-- Where label I2 goes depends on the number of CFG's entries only. -/
theorem gotoI2_congr {s u : State} (h : u.cfgLength = s.cfgLength) (k : Nat) :
    ∃ i, u.gotoI2 k = { u with seq := (s.gotoI2 k).seq, idx := i } := by
  unfold State.gotoI2
  rw [h]
  split
  · exact ⟨_, rfl⟩
  · exact ⟨u.idx, rfl⟩

/-- Where label I3v goes depends on the sync length only. -/
theorem gotoI3v_congr {s u : State} (h : u.syncLen = s.syncLen) (k : Nat) :
    ∃ i, u.gotoI3v k = { u with seq := (s.gotoI3v k).seq, idx := i } := by
  unfold State.gotoI3v
  rw [h]
  split
  · split
    · exact ⟨_, rfl⟩
    · exact ⟨u.idx, rfl⟩
  · exact ⟨u.idx, rfl⟩

theorem syncWrites_getElem? {s : State} {k : Nat} {a : Addr} {v : Byte} (h : (syncWrites s)[k]? = some (a, v)) :
    ∃ j : Fin 8, j.val = k ∧ j.val < s.syncLen.toNat ∧ syncValAddr s.cfg j.val = a ∧ s.syncVal[j] = v := by
  simp only [syncWrites, List.getElem?_mapIdx, Option.map_eq_some_iff, Prod.mk.injEq] at h
  obtain ⟨b, hb, ha, rfl⟩ := h
  obtain ⟨hk, rfl⟩ := List.getElem?_eq_some_iff.1 hb
  rw [List.length_take, Vector.length_toList, lt_min_iff] at hk
  obtain ⟨hlen, h8⟩ := hk
  exact ⟨⟨k, h8⟩, rfl, hlen, ha, by simp⟩

section
variable {s u : State} {ts : List Txn}

/-- A list of writes whose labels are `label 0`, `label 1`, ... is done entry by entry. -/
theorem InitRan.writes {ws : List (Addr × Byte)} {label : Nat → Label}
    (hstep : ∀ ts u k a v, InitRan s ts u → u.seq = label k → ws[k]? = some (a, v) →
      ∃ i, step u = .next { u.wrote a v with seq := label (k + 1), idx := i })
    (h : InitRan s ts u) (hs : u.seq = label 0) :
    ∃ w, InitRan s (ts ++ writeTxns ws) w ∧ w.seq = label ws.length := by
  have hentries : ∀ k, k ≤ ws.length → ∃ w, InitRan s (ts ++ writeTxns (ws.take k)) w ∧ w.seq = label k := by
    intro k hk
    induction k with
    | zero => exact ⟨u, by simpa [writeTxns] using h, hs⟩
    | succ k ih =>
      obtain ⟨w, hw, hseq⟩ := ih (by omega)
      have hget : ws[k]? = some (ws[k].1, ws[k].2) := List.getElem?_eq_getElem hk
      obtain ⟨i, hi⟩ := hstep _ w k _ _ hw hseq hget
      have hnext := hw.wrote hi
      rw [List.append_assoc] at hnext
      rw [List.take_succ_eq_append_getElem hk, writeTxns, List.map_append]
      exact ⟨_, hnext, rfl⟩
  simpa using hentries ws.length le_rfl

/-- The writes of CFG, I2[0] to I3c (R149). -/
theorem InitRan.configures (h : InitRan s ts u) (hs : u.seq = .i2 0) :
    ∃ w, InitRan s (ts ++ writeTxns (cfgList s.cfg s.rxPlen)) w ∧ w.seq = .i3c := by
  have hstep : ∀ ts u k a v, InitRan s ts u → u.seq = (s.gotoI2 k).seq → (cfgList s.cfg s.rxPlen)[k]? = some (a, v) →
      ∃ i, step u = .next { u.wrote a v with seq := (s.gotoI2 (k + 1)).seq, idx := i } := by
    intro ts u k a v h hs he
    have hk : k < s.cfgLength := (List.getElem?_eq_some_iff.1 he).1
    have hlabel : u.seq = .i2 k := by rw [hs, State.gotoI2, if_pos hk]
    have hlen : (u.wrote a v).cfgLength = s.cfgLength := by rw [cfgLength_wrote, cfgLength_eq, cfgLength_eq, h.cfg]
    obtain ⟨i, hi⟩ := gotoI2_congr hlen (k + 1)
    exact ⟨i, by rw [step_i2 h.alone hlabel (by rwa [h.cfg, h.rxPlen]), hi]⟩
  have hend : (s.gotoI2 s.cfgLength).seq = .i3c := by rw [State.gotoI2, if_neg (Nat.lt_irrefl _)]
  obtain ⟨w, hw, hseq⟩ := h.writes hstep (hs.trans (gotoI2_zero_seq s).symm)
  exact ⟨w, hw, hseq.trans hend⟩

/-- The sync-configuration byte and the sync bytes, I3c to I4 (R152, R153). -/
theorem InitRan.syncs (h : InitRan s ts u) (hs : u.seq = .i3c) (h8 : s.syncLen.toNat ≤ 8) :
    ∃ w, InitRan s (ts ++ [.w s.cfg.addrSyncCfg (syncConfigByte s.cfg s.syncLen.toNat s.syncTol)]
      ++ writeTxns (syncWrites s)) w ∧ w.seq = .i4 := by
  have hstep : ∀ ts u k a v, InitRan s ts u → u.seq = (s.gotoI3v k).seq → (syncWrites s)[k]? = some (a, v) →
      ∃ i, step u = .next { u.wrote a v with seq := (s.gotoI3v (k + 1)).seq, idx := i } := by
    intro ts u k a v h hs he
    obtain ⟨j, rfl, hj, rfl, rfl⟩ := syncWrites_getElem? he
    have hlabel : u.seq = .i3v j := by rw [hs, gotoI3v_of_lt j hj]
    have hi := step_i3v h.alone hlabel (by rwa [h.syncLen])
    rw [h.cfg, h.syncVal] at hi
    obtain ⟨i, hgoto⟩ := gotoI3v_congr (u := u.wrote (syncValAddr s.cfg j.val) s.syncVal[j]) h.syncLen (j.val + 1)
    exact ⟨i, by rw [hi, hgoto]⟩
  have hcfg := step_i3c h.alone hs
  rw [h.cfg, h.syncLen, h.syncTol] at hcfg
  obtain ⟨i, hgoto⟩ := gotoI3v_congr (u := u.wrote s.cfg.addrSyncCfg (syncConfigByte s.cfg s.syncLen.toNat s.syncTol))
    h.syncLen 0
  rw [hgoto] at hcfg
  obtain ⟨w, hw, hseq⟩ := (h.wrote hcfg).writes hstep rfl
  rw [length_syncWrites h8, gotoI3v_of_end le_rfl] at hseq
  exact ⟨w, hw, hseq⟩

/-- The end of INIT, I4 to Idle (R154, R155). -/
theorem InitRan.finishes (h : InitRan s ts u) (hs : u.seq = .i4) :
    ∃ (t : State) (es : List Event),
      run (ts ++ endTxns s).length s = .next t ∧
      t.trace = s.trace ++ es ++ [.done none] ∧ transactions es = (ts ++ endTxns s).map some ∧
      t.seq = .idle ∧ t.cmd = .none ∧ t.gMode = .known .receive ∧ t.gConfigured = true := by
  obtain ⟨hthr, -⟩ := initThresholdThenReceive u h.alone
  have hi := hthr hs
  rw [h.cfg] at hi
  obtain ⟨v, hv, hseq⟩ : ∃ v, InitRan s (ts ++ [.w s.cfg.addrFifoThr s.cfg.valFifoThr]) v ∧ v.seq = .i5 :=
    ⟨_, h.wrote hi, rfl⟩
  have hmode := hv.traced.trans (traced_wrote v.cfg.addrMode (v.cfg.modeVal .receive) v)
  obtain ⟨es, -, htrace, htx, -⟩ := hmode
  rw [hv.cfg, List.append_assoc] at htx
  refine ⟨(microEffect (.setmode .receive) v).finishInit, es, ?_, congrArg (· ++ [Event.done none]) htrace, htx,
    rfl, rfl, rfl, rfl⟩
  have hlen : (ts ++ endTxns s).length = (ts ++ [Txn.w s.cfg.addrFifoThr s.cfg.valFifoThr]).length + 1 := by
    simp [endTxns]
  rw [hlen, run_add 1 hv.ran]
  exact run_succ_of_next (step_i5 hv.alone hseq)

end

/-- Settles O58: the two loops, the configuration, the sync word and the end, one after another. -/
theorem initRunsItsTransactions : Obligations.InitRunsItsTransactions := by
  intro s p q h hs hl ha hb
  obtain ⟨-, h8⟩ := s.initLatched_iff.1 hl
  obtain ⟨u, hu, hseq⟩ := (initRan_nil h).liveness livenessLoopA hs rfl ha
  have hlen : 2 * ([] ++ livenessTxns Config.sentinelA 0 p s).length = 4 * (p + 1) := by
    rw [List.nil_append, length_livenessTxns]
    omega
  obtain ⟨v, hv, hseq⟩ := hu.liveness livenessLoopB hseq hlen hb
  obtain ⟨w, hw, hseq⟩ := hv.configures hseq
  obtain ⟨x, hx, hseq⟩ := hw.syncs hseq h8
  rw [← length_initTxns p q h8, initTxns_eq]
  exact hx.finishes hseq

end Sys2Proof.Machine

/-! POLL (43_receive_poll.md): P3's step, and the end of every drain whatever the chip returns. -/

namespace Sys2Proof.Machine

/-- Settles O35: P3's step, and the two outcomes of the loop test after the byte. -/
theorem pollStoresTheByte : Obligations.PollStoresTheByte := by
  intro s h hs hlt
  refine ⟨_, step_p3 h hs, ?_⟩
  unfold State.storeByte
  by_cases hroom : s.idx + 1 < s.cap
  · rw [State.pollLoop_of_room hroom]
    exact ⟨rfl, rfl, rfl, rfl, rfl, fun _ => ⟨rfl, rfl, rfl⟩, fun hfull => absurd hroom (hfull ▸ BitVec.lt_irrefl _)⟩
  · have hfull : s.idx + 1 = s.cap := by bv_omega
    rw [State.pollLoop_of_full (Nat.not_lt.1 hroom), ← hfull]
    exact ⟨rfl, rfl, rfl, rfl, rfl, fun hlt => absurd hlt (BitVec.lt_irrefl _),
      fun _ => ⟨rfl, rfl, rfl, rfl, List.append_assoc _ [_] [_]⟩⟩

/-- The POLL that began at `s` drains `n` bytes, makes the transactions `tail` after them, which brings it to `w`, and ends
there with the result `(received, count)` (R171). -/
structure PollRan (s : State) (n : Nat) (received : Bool) (tail : List Txn) (w : State) (count : Byte) : Prop where
  ran : run (1 + 2 * n + tail.length) s = .next (w.finishPoll received count)
  traced : Traced s w (pollTxns n s ++ tail) (drainedWrites n s)
  notEmpty : ∀ j, j < n → flagSet s.cfg .fne (s.answerAt (4 * j + 3)) = true
  ends : pollEnds n received tail s
  toNat_count : count.toNat = n

/-- None of the three ends needs more room than the capacity, nor more transactions than R174 allows. -/
theorem pollEnds_bounds {n : Nat} {received : Bool} {tail : List Txn} {s : State} (h : pollEnds n received tail s) :
    n ≤ s.cap.toNat ∧ 1 + 2 * n + tail.length ≤ 2 * s.cap.toNat + 2 := by
  obtain ⟨-, rfl, rfl, -⟩ | ⟨-, hn, rfl, -, -⟩ | ⟨-, rfl, rfl, -⟩ := h
  · simp
  · rw [pollEmptyTxn, List.length_singleton]
    omega
  · rw [List.length_nil]
    omega

/-- Whatever the chip answers, there is a first count at which FIFO-not-empty reads clear or the capacity is reached
(R168, R169). -/
theorem exists_drain_length (s : State) :
    ∃ n, n ≤ s.cap.toNat ∧ (∀ j, j < n → flagSet s.cfg .fne (s.answerAt (4 * j + 3)) = true) ∧
      (n < s.cap.toNat → flagSet s.cfg .fne (s.answerAt (4 * n + 3)) = false) := by
  have hstop : ∃ n, ¬(n < s.cap.toNat ∧ flagSet s.cfg .fne (s.answerAt (4 * n + 3)) = true) :=
    ⟨s.cap.toNat, fun h => Nat.lt_irrefl _ h.1⟩
  refine ⟨Nat.find hstop, Nat.find_min' hstop fun h => Nat.lt_irrefl _ h.1,
    fun j hj => (not_not.1 (Nat.find_min hstop hj)).2, fun hlt => ?_⟩
  exact Bool.eq_false_iff.2 fun hset => Nat.find_spec hstop ⟨hlt, hset⟩

section
variable {s : State}

/-- Payload ready clear: P1's read is the only transaction (R167). -/
theorem pollRan_not_ready (h : s.alone = true) (hs : s.seq = .p1) (hpr : flagSet s.cfg .pr (s.answerAt 1) = false) :
    PollRan s 0 false [] (s.didRead s.cfg.flagPr.addr s.cfg.dummy) 0 where
  ran := by
    have hend := step_p1 h hs
    rw [hpr, if_neg Bool.false_ne_true] at hend
    exact run_succ_of_next hend
  traced := traced_didRead _ _ s
  notEmpty j hj := absurd hj (Nat.not_lt_zero j)
  ends := .inl ⟨rfl, rfl, rfl, hpr⟩
  toNat_count := rfl

/-- FIFO-not-empty clear with room left: its read ends the command (R169, R170). -/
theorem Drained.pollRan_empty {n : Nat} {u : State} (hu : Drained s n u) (hrun : run (1 + 2 * n) s = .next u.pollLoop)
    (hn : n < s.cap.toNat) (hpr : flagSet s.cfg .pr (s.answerAt 1) = true)
    (hset : ∀ j, j < n → flagSet s.cfg .fne (s.answerAt (4 * j + 3)) = true)
    (hclear : flagSet s.cfg .fne (s.answerAt (4 * n + 3)) = false) :
    PollRan s n true [pollEmptyTxn n s] u.looked u.idx where
  ran := by
    have hlast := step_pollLoop hu.alone (hu.room hn)
    rw [hu.fne hclear, if_neg Bool.false_ne_true] at hlast
    rw [List.length_singleton, run_add 1 hrun, run_succ_of_next hlast, run_zero]
  traced := hu.traced_looked
  notEmpty := hset
  ends := .inr (.inl ⟨rfl, hn, rfl, hpr, hclear⟩)
  toNat_count := hu.idx

/-- The capacity reached: the loop test ends the command with no further read (R168, R170). -/
theorem Drained.pollRan_full {u : State} (hu : Drained s s.cap.toNat u)
    (hrun : run (1 + 2 * s.cap.toNat) s = .next u.pollLoop) (hpr : flagSet s.cfg .pr (s.answerAt 1) = true)
    (hset : ∀ j, j < s.cap.toNat → flagSet s.cfg .fne (s.answerAt (4 * j + 3)) = true) :
    PollRan s s.cap.toNat true [] u u.idx where
  ran := by
    rw [List.length_nil, Nat.add_zero, hrun, State.pollLoop_of_full (by rw [hu.idx, hu.cap])]
  traced := (List.append_nil (pollTxns s.cap.toNat s)).symm ▸ hu.traced
  notEmpty := hset
  ends := .inr (.inr ⟨rfl, rfl, rfl, hpr⟩)
  toNat_count := hu.idx

/-- Every POLL runs to one of its three ends (R171). -/
theorem exists_pollRan (h : s.alone = true) (hs : s.seq = .p1) (hi : s.idx = 0) :
    ∃ n received tail w count, PollRan s n received tail w count := by
  cases hpr : flagSet s.cfg .pr (s.answerAt 1) with
  | false => exact ⟨_, _, _, _, _, pollRan_not_ready h hs hpr⟩
  | true =>
    obtain ⟨n, hn, hset, hclear⟩ := exists_drain_length s
    obtain ⟨u, hrun, hu⟩ := run_drained h hs hi hpr n hn hset
    obtain hlt | rfl := hn.lt_or_eq
    · exact ⟨_, _, _, _, _, hu.pollRan_empty hrun hlt hpr hset (hclear hlt)⟩
    · exact ⟨_, _, _, _, _, hu.pollRan_full hrun hpr hset⟩

end

/-- Settles O55: the drain up to its first clear flag or the capacity, and the end that it meets there. -/
theorem pollAlwaysEnds : Obligations.PollAlwaysEnds := by
  intro s h hs hi
  obtain ⟨n, received, tail, w, count, hran⟩ := exists_pollRan h hs hi
  obtain ⟨es, -, htrace, htx, hbw⟩ := hran.traced
  obtain ⟨hcap, hbound⟩ := pollEnds_bounds hran.ends
  have hle : count ≤ s.cap := by rwa [BitVec.le_def, hran.toNat_count]
  exact ⟨n, tail, w.finishPoll received count, es, hran.ran, hbound, hran.ends, hran.notEmpty, rfl, rfl, hran.toNat_count, hle,
    congrArg (· ++ [Event.done (some (received, count))]) htrace, htx, hbw⟩

end Sys2Proof.Machine

/-! TX (44_transmit.md): the labels one by one, and the whole command as one run. -/

namespace Sys2Proof.Machine

/-! The labels -/

/-- Settles O36: T1m's mode write and T1c's clearing write. -/
theorem txForcesStandbyAndClears : Obligations.TxForcesStandbyAndClears := by
  intro s h
  refine ⟨fun hs => ?_, fun hs => ?_⟩
  · rw [step_alone_setmode (m := .standby) h (by simp [hs]) (hs ▸ rfl), hs]
    rfl
  · rw [step_alone_clrfifo h (by simp [hs]) (hs ▸ rfl), hs]
    rfl

/-- Settles O37: T2r's read and T2w's write of zero. -/
theorem txSavesAndZeroesSync : Obligations.TxSavesAndZeroesSync := by
  intro s h
  refine ⟨fun hs => ?_, fun hs => ?_⟩
  · rw [step_alone_rreg (a := s.cfg.addrSyncCfg) h (by simp [hs]) (hs ▸ rfl), hs]
    rfl
  · rw [step_alone_wreg (a := s.cfg.addrSyncCfg) (v := Config.syncDisabled) h (by simp [hs]) (hs ▸ rfl), hs]
    rfl

/-- Settles O38: T3r's read and T3w's write of the packet's length. -/
theorem txSavesAndSetsPayloadLength : Obligations.TxSavesAndSetsPayloadLength := by
  intro s h
  refine ⟨fun hs => ?_, fun hs => ?_⟩
  · rw [step_alone_rreg (a := s.cfg.addrPlen) h (by simp [hs]) (hs ▸ rfl), hs]
    rfl
  · rw [step_alone_wreg (a := s.cfg.addrPlen) (v := s.txLen) h (by simp [hs]) (hs ▸ rfl), hs]
    rfl

/-- Settles O39: T4's burst and T5m's mode write. -/
theorem txFillsThenSelectsTransmit : Obligations.TxFillsThenSelectsTransmit := by
  intro s h
  refine ⟨fun hs => ?_, fun hs => ?_⟩
  · rw [step_alone_fifowr (n := s.txLen) h (by simp [hs]) (hs ▸ rfl), hs]
    rfl
  · rw [step_alone_setmode (m := .transmit) h (by simp [hs]) (hs ▸ rfl), hs]
    rfl

/-- Where packet sent reads clear, T5p is left as it is but for the read (R188). -/
theorem step_t5p_clear {s : State} (h : s.alone = true) (hs : s.seq = .t5p)
    (hf : flagSet s.cfg .ps (s.answerAt 1) = false) :
    step s = .next { s.didRead s.cfg.flagPs.addr s.cfg.dummy with seq := .t5p } := by
  rw [step_t5p h hs, hf, if_neg Bool.false_ne_true]
  rfl

/-- Where it reads set, the spin is left (R188). -/
theorem step_t5p_set {s : State} (h : s.alone = true) (hs : s.seq = .t5p)
    (hf : flagSet s.cfg .ps (s.answerAt 1) = true) :
    step s = .next
      { s.didRead s.cfg.flagPs.addr s.cfg.dummy with seq := if s.suppress then .t6m else .t7w } := by
  rw [step_t5p h hs, hf, if_pos rfl]
  rfl

/-- Settles O40: T5p's read for both values of the flag. -/
theorem txSpinsOnPacketSent : Obligations.TxSpinsOnPacketSent := by
  intro s h hs
  refine ⟨fun hf => ?_, fun hf => ?_⟩
  · rw [step_t5p_clear h hs ((flagSet_eq_false_iff s.cfg .ps _).2 hf), ← hs]
    rfl
  · exact step_t5p_set h hs ((flagSet_iff s.cfg .ps _).2 hf)

/-- Settles O41: T6m's mode write, then T6w for a byte saved and for none. -/
theorem txRestoresSync : Obligations.TxRestoresSync := by
  intro s h
  refine ⟨fun hs => ?_, fun v hs hv => ?_, fun hs hv => ?_⟩
  · rw [step_alone_setmode (m := .standby) h (by simp [hs]) (hs ▸ rfl), hs]
    rfl
  · have hi : microOp s.seq s = .ok (.wreg s.cfg.addrSyncCfg v) := by simp [hs, microOp, microRestore, saved, hv]
    rw [step_alone_wreg h (by simp [hs]) hi, hs]
    rfl
  · exact step_alone_fault h (by simp [hs]) (by simp [hs, microOp, microRestore, saved, hv])

end Sys2Proof.Machine

/-! The whole command (R191 to R193): a run of TX and its transactions, one a step. -/

namespace Sys2Proof.Machine

/-! What a transaction leaves on the trace and in the register record -/

/-- `u` comes after `s` by the transactions `ts`: they are what the trace has gained, and every register of the record holds
the last byte they gave it, or else what it held. -/
structure Transacted (s : State) (ts : List Txn) (u : State) : Prop where
  traced : Traced s u ts []
  regs : ∀ a : Addr, u.regs.read? a.toNat = (ts.flatMap (Txn.given a)).getLast?.or (s.regs.read? a.toNat)

theorem transacted_nil (s : State) : Transacted s [] s := ⟨Traced.refl s, fun _ => rfl⟩

theorem Transacted.trans {s u w : State} {ts ts' : List Txn} (h : Transacted s ts u) (k : Transacted u ts' w) :
    Transacted s (ts ++ ts') w where
  traced := h.traced.trans k.traced
  regs a := by rw [k.regs, h.regs, List.flatMap_append, List.getLast?_append, Option.or_assoc]

/-- A register of the record after bytes are given to one of them. -/
theorem read?_burstRegs (a b : Addr) (data : List Byte) (m : Memory) :
    (burstRegs a data m).read? b.toNat = (if a = b then data else []).getLast?.or (m.read? b.toNat) := by
  unfold burstRegs
  split
  · next v hv =>
    by_cases hab : a = b
    · rw [if_pos hab, hv, hab, Memory.read?_write_self, Option.some_or]
    · have hne : b.toNat ≠ a.toNat := fun h => hab (BitVec.eq_of_toNat_eq h).symm
      rw [if_neg hab, Memory.read?_write_other _ _ _ _ hne, List.getLast?_nil, Option.none_or]
  · next hv => rw [List.getLast?_eq_none_iff.1 hv, ite_self, List.getLast?_nil, Option.none_or]

/-- A burst gives its register its bytes, also where it reads as a W frame (R84). -/
theorem given_burstTxn (a b : Addr) (data : List Byte) :
    (burstTxn a data).given b = if a = b then data else [] := by
  match data with
  | [] => rfl
  | [_] => rfl
  | _ :: _ :: _ => rfl

/-- FIFOWR's bytes are a burst of the buffer's to the FIFO's register (R116). -/
theorem sentBuffer_burstRegs (n : Nat) (s : State) :
    (s.sentBuffer n).regs = burstRegs s.cfg.addrFifo ((List.range n).map s.bufByte) s.regs := by
  cases n with
  | zero => rfl
  | succ n => rw [burstRegs, List.range_succ, List.map_append, List.map_singleton, List.getLast?_concat]; rfl

theorem transacted_wrote (a : Addr) (v : Byte) (s : State) : Transacted s [.w a v] (s.wrote a v) :=
  ⟨traced_wrote a v s, fun b => by rw [List.flatMap_singleton]; exact read?_burstRegs a b [v] s.regs⟩

theorem transacted_didRead (a : Addr) (d : Byte) (s : State) :
    Transacted s [.r a (s.answerAt 1)] (s.didRead a d) :=
  ⟨traced_didRead a d s, fun _ => rfl⟩

theorem bufWrites_fifoEvents (n : Nat) (s : State) : bufWrites (fifoEvents n s) = [] := by
  refine List.filterMap_eq_nil_iff.2 fun e he => ?_
  simp only [fifoEvents, List.cons_append, List.nil_append, List.mem_cons, List.mem_append, List.mem_flatMap,
    List.not_mem_nil, or_false] at he
  rcases he with rfl | rfl | rfl | ⟨j, -, rfl | rfl⟩ | rfl | rfl <;> rfl

theorem traced_sentBuffer (n : Byte) (s : State) :
    Traced s (s.sentBuffer n.toNat) [burstTxn s.cfg.addrFifo ((List.range n.toNat).map s.bufByte)] [] :=
  ⟨_, traceOk_fifoEvents n.toNat s, rfl, transactions_fifoEvents n s, bufWrites_fifoEvents n.toNat s⟩

theorem transacted_sentBuffer (n : Byte) (s : State) :
    Transacted s [burstTxn s.cfg.addrFifo ((List.range n.toNat).map s.bufByte)] (s.sentBuffer n.toNat) :=
  ⟨traced_sentBuffer n s, fun b => by
    rw [sentBuffer_burstRegs, read?_burstRegs, List.flatMap_singleton, given_burstTxn]⟩

/-! What a run of TX keeps -/

/-- `u` is the TX that ran alone from `s` once its transactions `ts` are done, one a step and `k` exchanges in all, its
operands still latched and the caller's buffer as it was. -/
structure TxRan (s : State) (ts : List Txn) (k : Nat) (u : State) : Prop extends Transacted s ts u where
  ran : run ts.length s = .next u
  alone : u.alone = true
  cfg : u.cfg = s.cfg
  txLen : u.txLen = s.txLen
  suppress : u.suppress = s.suppress
  bufByte : u.bufByte = s.bufByte
  answers : ∀ i, u.answerAt i = s.answerAt (k + i)

theorem txRan_nil {s : State} (h : s.alone = true) : TxRan s [] 0 s where
  toTransacted := transacted_nil s
  ran := rfl
  alone := h
  cfg := rfl
  txLen := rfl
  suppress := rfl
  bufByte := rfl
  answers i := by rw [Nat.zero_add]

theorem TxRan.trans {s u w : State} {ts ts' : List Txn} {k k' : Nat} (h : TxRan s ts k u) (h' : TxRan u ts' k' w) :
    TxRan s (ts ++ ts') (k + k') w where
  toTransacted := h.toTransacted.trans h'.toTransacted
  ran := by rw [List.length_append, run_add _ h.ran, h'.ran]
  alone := h'.alone
  cfg := h'.cfg.trans h.cfg
  txLen := h'.txLen.trans h.txLen
  suppress := h'.suppress.trans h.suppress
  bufByte := h'.bufByte.trans h.bufByte
  answers i := by rw [h'.answers, h.answers, Nat.add_assoc]

/-- The TX that ran from `s` has come to label `l` by the transactions `ts` and their `k` exchanges, with `sync` and `plen`
in the two save latches (R25). -/
def TxReaches (s : State) (ts : List Txn) (k : Nat) (l : Label) (sync plen : Option Byte) : Prop :=
  ∃ u, TxRan s ts k u ∧ u.seq = l ∧ u.svSync = sync ∧ u.svPlen = plen

section
variable {s u : State} {ts : List Txn} {k : Nat} {a : Addr} {l : Label}

/-- A step that writes a register and changes mode and label besides. -/
theorem TxRan.wrote {v : Byte} {g : GMode} (h : TxRan s ts k u)
    (hstep : step u = .next { u.wrote a v with gMode := g, seq := l }) :
    TxReaches s (ts ++ [.w a v]) (k + 2) l u.svSync u.svPlen := by
  have hwrote := transacted_wrote a v u
  have hran : TxRan u [.w a v] 2 { u.wrote a v with gMode := g, seq := l } :=
    ⟨⟨hwrote.traced, hwrote.regs⟩, run_succ_of_next hstep, State.alone_congr h.alone rfl rfl rfl, rfl, rfl, rfl, rfl,
      State.answerAt_wrote a v u⟩
  exact ⟨_, h.trans hran, rfl, rfl, rfl⟩

/-- A step that reads one and may save the byte. -/
theorem TxRan.didRead {d : Byte} {sync plen : Option Byte} (h : TxRan s ts k u)
    (hstep : step u = .next { u.didRead a d with svSync := sync, svPlen := plen, seq := l }) :
    TxReaches s (ts ++ [.r a (u.answerAt 1)]) (k + 2) l sync plen := by
  have hread := transacted_didRead a d u
  have hran : TxRan u [.r a (u.answerAt 1)] 2 { u.didRead a d with svSync := sync, svPlen := plen, seq := l } :=
    ⟨⟨hread.traced, hread.regs⟩, run_succ_of_next hstep, State.alone_didRead a d h.alone, rfl, rfl, rfl, rfl,
      State.answerAt_didRead a d u⟩
  exact ⟨_, h.trans hran, rfl, rfl, rfl⟩

/-- A step that bursts the caller's buffer into the FIFO. -/
theorem TxRan.sentBuffer {n : Byte} (h : TxRan s ts k u)
    (hstep : step u = .next { u.sentBuffer n.toNat with seq := l }) :
    TxReaches s (ts ++ [burstTxn u.cfg.addrFifo ((List.range n.toNat).map u.bufByte)]) (k + (n.toNat + 1)) l
      u.svSync u.svPlen := by
  have hsent := transacted_sentBuffer n u
  have hran : TxRan u [burstTxn u.cfg.addrFifo ((List.range n.toNat).map u.bufByte)] (n.toNat + 1)
      { u.sentBuffer n.toNat with seq := l } :=
    ⟨⟨hsent.traced, hsent.regs⟩, run_succ_of_next hstep, State.alone_congr h.alone rfl rfl rfl, rfl, rfl, rfl, rfl,
      State.answerAt_of_rx (n.toNat + 1) rfl rfl⟩
  exact ⟨_, h.trans hran, rfl, rfl, rfl⟩

end

/-! Label by label (R181): a label's transaction, what it saves, and the label after it -/

section
variable {s : State} {ts : List Txn} {k : Nat} {sync plen : Option Byte}

theorem txReaches_start (h : s.alone = true) (hs : s.seq = .t1m) : TxReaches s [] 0 .t1m s.svSync s.svPlen :=
  ⟨s, txRan_nil h, hs, rfl, rfl⟩

theorem TxReaches.after_t1m (h : TxReaches s ts k .t1m sync plen) :
    TxReaches s (ts ++ [.w s.cfg.addrMode s.cfg.valStandby]) (k + 2) .t1c sync plen := by
  obtain ⟨u, hu, hseq, rfl, rfl⟩ := h
  obtain ⟨hstep, -⟩ := txForcesStandbyAndClears u hu.alone
  rw [← hu.cfg]
  exact hu.wrote (hstep hseq)

theorem TxReaches.after_t1c (h : TxReaches s ts k .t1c sync plen) :
    TxReaches s (ts ++ [.w s.cfg.clrAddr s.cfg.clrVal]) (k + 2) (if s.suppress then .t2r else .t3r) sync plen := by
  obtain ⟨u, hu, hseq, rfl, rfl⟩ := h
  obtain ⟨-, hstep⟩ := txForcesStandbyAndClears u hu.alone
  rw [← hu.cfg, ← hu.suppress]
  exact hu.wrote (hstep hseq)

theorem TxReaches.after_t2r (h : TxReaches s ts k .t2r sync plen) :
    TxReaches s (ts ++ [.r s.cfg.addrSyncCfg (s.answerAt (k + 1))]) (k + 2) .t2w (some (s.answerAt (k + 1))) plen := by
  obtain ⟨u, hu, hseq, rfl, rfl⟩ := h
  obtain ⟨hstep, -⟩ := txSavesAndZeroesSync u hu.alone
  rw [← hu.cfg, ← hu.answers]
  exact hu.didRead (hstep hseq)

theorem TxReaches.after_t2w (h : TxReaches s ts k .t2w sync plen) :
    TxReaches s (ts ++ [.w s.cfg.addrSyncCfg 0x00]) (k + 2) .t3r sync plen := by
  obtain ⟨u, hu, hseq, rfl, rfl⟩ := h
  obtain ⟨-, hstep⟩ := txSavesAndZeroesSync u hu.alone
  rw [← hu.cfg]
  exact hu.wrote (hstep hseq)

theorem TxReaches.after_t3r (h : TxReaches s ts k .t3r sync plen) :
    TxReaches s (ts ++ [.r s.cfg.addrPlen (s.answerAt (k + 1))]) (k + 2) .t3w sync (some (s.answerAt (k + 1))) := by
  obtain ⟨u, hu, hseq, rfl, rfl⟩ := h
  obtain ⟨hstep, -⟩ := txSavesAndSetsPayloadLength u hu.alone
  rw [← hu.cfg, ← hu.answers]
  exact hu.didRead (hstep hseq)

theorem TxReaches.after_t3w (h : TxReaches s ts k .t3w sync plen) :
    TxReaches s (ts ++ [.w s.cfg.addrPlen s.txLen]) (k + 2) .t4 sync plen := by
  obtain ⟨u, hu, hseq, rfl, rfl⟩ := h
  obtain ⟨-, hstep⟩ := txSavesAndSetsPayloadLength u hu.alone
  rw [← hu.cfg, ← hu.txLen]
  exact hu.wrote (hstep hseq)

theorem TxReaches.after_t4 (h : TxReaches s ts k .t4 sync plen) :
    TxReaches s (ts ++ [burstTxn s.cfg.addrFifo ((List.range s.txLen.toNat).map s.bufByte)]) (k + (s.txLen.toNat + 1))
      .t5m sync plen := by
  obtain ⟨u, hu, hseq, rfl, rfl⟩ := h
  obtain ⟨hstep, -⟩ := txFillsThenSelectsTransmit u hu.alone
  rw [← hu.cfg, ← hu.txLen, ← hu.bufByte]
  exact hu.sentBuffer (hstep hseq)

theorem TxReaches.after_t5m (h : TxReaches s ts k .t5m sync plen) :
    TxReaches s (ts ++ [.w s.cfg.addrMode s.cfg.valTransmit]) (k + 2) .t5p sync plen := by
  obtain ⟨u, hu, hseq, rfl, rfl⟩ := h
  obtain ⟨-, hstep⟩ := txFillsThenSelectsTransmit u hu.alone
  rw [← hu.cfg]
  exact hu.wrote (hstep hseq)

theorem TxReaches.after_t5p_clear (h : TxReaches s ts k .t5p sync plen)
    (hf : flagSet s.cfg .ps (s.answerAt (k + 1)) = false) :
    TxReaches s (ts ++ [.r s.cfg.flagPs.addr (s.answerAt (k + 1))]) (k + 2) .t5p sync plen := by
  obtain ⟨u, hu, hseq, rfl, rfl⟩ := h
  rw [← hu.cfg, ← hu.answers] at hf ⊢
  exact hu.didRead (step_t5p_clear hu.alone hseq hf)

theorem TxReaches.after_t5p_set (h : TxReaches s ts k .t5p sync plen)
    (hf : flagSet s.cfg .ps (s.answerAt (k + 1)) = true) :
    TxReaches s (ts ++ [.r s.cfg.flagPs.addr (s.answerAt (k + 1))]) (k + 2) (if s.suppress then .t6m else .t7w)
      sync plen := by
  obtain ⟨u, hu, hseq, rfl, rfl⟩ := h
  rw [← hu.cfg, ← hu.answers] at hf
  rw [← hu.cfg, ← hu.answers, ← hu.suppress]
  exact hu.didRead (step_t5p_set hu.alone hseq hf)

theorem TxReaches.after_t6m (h : TxReaches s ts k .t6m sync plen) :
    TxReaches s (ts ++ [.w s.cfg.addrMode s.cfg.valStandby]) (k + 2) .t6w sync plen := by
  obtain ⟨u, hu, hseq, rfl, rfl⟩ := h
  obtain ⟨hstep, -, -⟩ := txRestoresSync u hu.alone
  rw [← hu.cfg]
  exact hu.wrote (hstep hseq)

theorem TxReaches.after_t6w {v : Byte} (h : TxReaches s ts k .t6w (some v) plen) :
    TxReaches s (ts ++ [.w s.cfg.addrSyncCfg v]) (k + 2) .t7w (some v) plen := by
  obtain ⟨u, hu, hseq, hsync, rfl⟩ := h
  obtain ⟨-, hstep, -⟩ := txRestoresSync u hu.alone
  rw [← hu.cfg, ← hsync]
  exact hu.wrote (hstep v hseq hsync)

theorem TxReaches.after_t7w {v : Byte} (h : TxReaches s ts k .t7w sync (some v)) :
    TxReaches s (ts ++ [.w s.cfg.addrPlen v]) (k + 2) .t7m sync (some v) := by
  obtain ⟨u, hu, hseq, rfl, hplen⟩ := h
  obtain ⟨hstep, -, -⟩ := txRestoresLengthThenReceives u hu.alone
  rw [← hu.cfg, ← hplen]
  exact hu.wrote (hstep v hseq hplen)

/-- The TX that ran from `s` has ended at `t`, in Idle and Receive (R190): the transactions `ts`, one a step, stand on the
trace before its `Done`, and every register of the record holds the last byte they gave it, or else what it held. -/
structure TxEnded (s : State) (ts : List Txn) (t : State) : Prop where
  ran : run ts.length s = .next t
  trace : ∃ es, t.trace = s.trace ++ es ++ [.done none] ∧ transactions es = ts.map some
  seq : t.seq = .idle
  cmd : t.cmd = .none
  gMode : t.gMode = .known .receive
  regs : ∀ a : Addr, t.regs.read? a.toNat = (ts.flatMap (Txn.given a)).getLast?.or (s.regs.read? a.toNat)

theorem TxReaches.after_t7m (h : TxReaches s ts k .t7m sync plen) :
    ∃ t, TxEnded s (ts ++ [.w s.cfg.addrMode s.cfg.valReceive]) t := by
  obtain ⟨u, hu, hseq, -, -⟩ := h
  obtain ⟨-, -, hstep⟩ := txRestoresLengthThenReceives u hu.alone
  have hend := hu.toTransacted.trans (transacted_wrote u.cfg.addrMode u.cfg.valReceive u)
  obtain ⟨es, -, htrace, htx, -⟩ := hend.traced
  rw [← hu.cfg]
  have hran := (run_add 1 hu.ran).trans (run_succ_of_next (hstep hseq))
  rw [← List.length_singleton (a := Txn.w u.cfg.addrMode u.cfg.valReceive), ← List.length_append] at hran
  exact ⟨_, hran, ⟨es, congrArg (· ++ [Event.done none]) htrace, htx⟩, rfl, rfl, rfl, hend.regs⟩

/-! The parts of R191 -/

/-- T1m to T2w: Standby and the clearing write and, with suppression, the sync configuration saved and zeroed (R182,
R183). -/
theorem txReaches_t3r (h : s.alone = true) (hs : s.seq = .t1m) :
    TxReaches s ([.w s.cfg.addrMode s.cfg.valStandby, .w s.cfg.clrAddr s.cfg.clrVal] ++
        if s.suppress then [.r s.cfg.addrSyncCfg (s.answerAt 5), .w s.cfg.addrSyncCfg 0x00] else [])
      s.txOffset .t3r (if s.suppress then some (s.answerAt 5) else s.svSync) s.svPlen := by
  have hclear := (txReaches_start h hs).after_t1m.after_t1c
  unfold State.txOffset
  cases hsup : s.suppress with
  | true =>
    rw [hsup] at hclear
    exact hclear.after_t2r.after_t2w
  | false =>
    rw [hsup] at hclear
    exact hclear

/-- T3r to T5m: the payload length saved and set, the FIFO filled, Transmit selected (R184, R185, R187). -/
theorem TxReaches.fills (h : TxReaches s ts k .t3r sync plen) :
    TxReaches s (ts ++ [.r s.cfg.addrPlen (s.answerAt (k + 1)), .w s.cfg.addrPlen s.txLen,
        burstTxn s.cfg.addrFifo ((List.range s.txLen.toNat).map s.bufByte), .w s.cfg.addrMode s.cfg.valTransmit])
      (k + s.txLen.toNat + 7) .t5p sync (some (s.answerAt (k + 1))) := by
  have hk : k + 2 + 2 + (s.txLen.toNat + 1) + 2 = k + s.txLen.toNat + 7 := by omega
  have hsent := h.after_t3r.after_t3w.after_t4.after_t5m
  simp only [hk, List.append_assoc] at hsent
  exact hsent

/-- T5p while packet sent reads clear, by induction on the reads (R188). -/
theorem TxReaches.spins (h : TxReaches s ts k .t5p sync plen) {n : Nat}
    (hf : ∀ j, j < n → flagSet s.cfg .ps (s.answerAt (k + (2 * j + 1))) = false) :
    TxReaches s (ts ++ (List.range n).map fun j => .r s.cfg.flagPs.addr (s.answerAt (k + (2 * j + 1)))) (k + 2 * n) .t5p
      sync plen := by
  induction n with
  | zero => simpa using h
  | succ n ih =>
    rw [List.range_succ, List.map_append, ← List.append_assoc]
    exact (ih fun j hj => hf j (by omega)).after_t5p_clear (hf n (by omega))

/-- T5p to its end, by the first read that finds packet sent set. -/
theorem TxReaches.sends (h : TxReaches s ts k .t5p sync plen) {n : Nat}
    (hf : ∀ j, j < n → flagSet s.cfg .ps (s.answerAt (k + (2 * j + 1))) = false)
    (hset : flagSet s.cfg .ps (s.answerAt (k + (2 * n + 1))) = true) :
    TxReaches s (ts ++ (List.range (n + 1)).map fun j => .r s.cfg.flagPs.addr (s.answerAt (k + (2 * j + 1))))
      (k + 2 * n + 2) (if s.suppress then .t6m else .t7w) sync plen := by
  rw [List.range_succ, List.map_append, ← List.append_assoc]
  exact (h.spins hf).after_t5p_set hset

/-- T6m and T6w, with suppression only: Standby, then the saved sync configuration written back (R189). -/
theorem TxReaches.restoresSync {v : Byte}
    (h : TxReaches s ts k (if s.suppress then .t6m else .t7w) (if s.suppress then some v else sync) plen) :
    ∃ k', TxReaches s
      (ts ++ if s.suppress then [.w s.cfg.addrMode s.cfg.valStandby, .w s.cfg.addrSyncCfg v] else []) k' .t7w
      (if s.suppress then some v else sync) plen := by
  cases hsup : s.suppress with
  | true =>
    rw [hsup] at h
    have hwrite := h.after_t6m.after_t6w
    rw [List.append_assoc] at hwrite
    exact ⟨_, hwrite⟩
  | false =>
    rw [hsup] at h
    exact ⟨k, by rwa [if_neg Bool.false_ne_true, List.append_nil]⟩

/-- The whole command, part after part (R191). -/
theorem exists_txEnded {n : Nat} (h : s.alone = true) (hs : s.seq = .t1m) (hn : s.txSent n) :
    ∃ t, TxEnded s (txTxns n s) t := by
  obtain ⟨hclear, hset⟩ := hn
  obtain ⟨k, hrestored⟩ := ((txReaches_t3r h hs).fills.sends hclear hset).restoresSync
  have hend := hrestored.after_t7w.after_t7m
  rwa [List.append_assoc] at hend

end

/-! The number of transactions, and the registers written back (R191, R192) -/

theorem length_txTxns (n : Nat) (s : State) : (txTxns n s).length = (if s.suppress then 12 else 8) + (n + 1) := by
  simp only [txTxns, List.length_append, List.length_map, List.length_range]
  cases s.suppress with
  | true => simp only [if_true, List.length_cons, List.length_nil]; omega
  | false => simp only [Bool.false_eq_true, if_false, List.length_cons, List.length_nil]; omega

/-- R7 (f) for the registers that TX writes. -/
theorem addrs_ne_of_fixedOk {p : Params} (h : p.fixedOk = true) :
    p.addrMode ≠ p.addrPlen ∧ p.addrMode ≠ p.addrSyncCfg ∧ p.addrFifo ≠ p.addrSyncCfg ∧ p.addrPlen ≠ p.addrSyncCfg ∧
      p.clrAddr ≠ p.addrSyncCfg := by
  simp only [Params.fixedOk, Params.fixedAddrs, Bool.and_eq_true, decide_eq_true_eq, List.nodup_cons, List.mem_cons,
    not_or] at h
  tauto

theorem given_w (a b : Addr) (v : Byte) : (Txn.w a v).given b = if a = b then [v] else [] := rfl

theorem given_r (a b : Addr) (v : Byte) : (Txn.r a v).given b = [] := rfl

/-- The payload length is written back as T3r read it. -/
theorem given_addrPlen_txTxns (n : Nat) {s : State} (h : s.cfg.fixedOk = true) :
    ((txTxns n s).flatMap (Txn.given s.cfg.addrPlen)).getLast? = some (s.answerAt (s.txOffset + 1)) := by
  obtain ⟨hmode, -⟩ := addrs_ne_of_fixedOk h
  simp [txTxns, given_w, hmode, List.getLast?_append, List.getLast?_cons]

/-- The sync configuration is written back as T2r read it with suppression, and not written without. -/
theorem given_addrSyncCfg_txTxns (n : Nat) {s : State} (h : s.cfg.fixedOk = true) :
    ((txTxns n s).flatMap (Txn.given s.cfg.addrSyncCfg)).getLast? =
      if s.suppress then some (s.answerAt 5) else none := by
  obtain ⟨-, hmode, hfifo, hplen, hclr⟩ := addrs_ne_of_fixedOk h
  cases hsup : s.suppress with
  | true => simp [txTxns, hsup, given_w, hmode, hplen, List.getLast?_append, List.getLast?_cons]
  | false => simp [txTxns, hsup, given_w, given_r, given_burstTxn, List.flatMap_map, hmode, hplen, hfifo, hclr]

/-- Settles O59: the run part by part, then the registers from its list of transactions. -/
theorem txRunsItsTransactions : Obligations.TxRunsItsTransactions := by
  intro s n h hs hp hn
  obtain ⟨t, ht⟩ := exists_txEnded h hs hn
  obtain ⟨es, htrace, htx⟩ := ht.trace
  refine ⟨t, es, length_txTxns n s ▸ ht.ran, htrace, htx, ht.seq, ht.cmd, ht.gMode, ?plen, ?sync⟩
  case plen => rw [ht.regs, given_addrPlen_txTxns n hp, Option.some_or]
  case sync =>
    rw [ht.regs, given_addrSyncCfg_txTxns n hp]
    cases s.suppress <;> rfl

end Sys2Proof.Machine

/-! The writes that TX makes to the sync configuration (70_reset_and_hazards.md R241): a write read back from a step's events
is to the register of its label's micro-operation, in a bracket cut by a reset too. -/

namespace Sys2Proof.Machine

/-! What reads back as a write (R97) -/

theorem addrByte_inj {w w' : Bool} {a a' : Addr} : addrByte w a = addrByte w' a' ↔ w = w' ∧ a = a' := by
  refine ⟨fun h => ⟨?_, ?_⟩, fun ⟨hw, ha⟩ => hw ▸ ha ▸ rfl⟩
  · simpa only [writeMarker_addrByte] using congrArg writeMarker h
  · simpa only [addrField_addrByte] using congrArg addrField h

theorem readBracket_eq_w {xs : List (Byte × Byte)} {a : Addr} {v : Byte} (h : readBracket xs = some (.w a v)) :
    xs.map Prod.fst = [addrByte true a, v] := by
  have hd : decodeBracket (xs.map Prod.fst) = .ok (.w a v) := by
    unfold readBracket at h
    split at h <;> cases h
    assumption
  obtain ⟨-, -, he⟩ := decodedBracketEncodesBack Config.b0 [] _ _ hd
  exact (PortWord.bracket.inj he).symm

theorem burstTxn_eq_w {a b : Addr} {v : Byte} {data : List Byte} (h : burstTxn b data = .w a v) : b = a := by
  match data with
  | [_] => cases h; rfl
  | [] | _ :: _ :: _ => cases h

/-- A bracket cut short reads back as the bytes it holds. -/
theorem transactions_cutEvents (bytes : List Byte) (s : State) :
    transactions (cutEvents bytes s) = [readBracket (bytes.mapIdx fun j b => (b, s.answerAt j))] := by
  have hsel : ∀ e ∈ bytes.mapIdx (fun j b => Event.x b (s.answerAt j)), BusPhase.after .selected e = some .selected := by
    intro e he
    obtain ⟨j, _, rfl⟩ := List.mem_mapIdx.1 he
    rfl
  have hbracket := brackets_bracket hsel []
  have hx : (bytes.mapIdx fun j b => Event.x b (s.answerAt j)).filterMap exchanged =
      bytes.mapIdx fun j b => (b, s.answerAt j) := by
    simp [List.mapIdx_eq_zipIdx_map, List.filterMap_map, Function.comp_def, exchanged]
  rw [hx] at hbracket
  exact congrArg (List.map readBracket) hbracket

theorem bytes_of_write_mem_cutEvents {bytes : List Byte} {s : State} {a : Addr} {v : Byte}
    (h : some (.w a v) ∈ transactions (cutEvents bytes s)) : bytes = [addrByte true a, v] := by
  rw [transactions_cutEvents, List.mem_singleton] at h
  simpa [List.mapIdx_eq_zipIdx_map, Function.comp_def] using readBracket_eq_w h.symm

/-! The register that a micro-operation writes -/

/-- Every write read back from these events is to the register that `i`'s address byte names for a write (R85, R97). -/
def WritesOf (i : Instr) (p : Params) (es : List Event) : Prop :=
  ∀ (a : Addr) (v : Byte), some (.w a v) ∈ transactions es → (i.frameBytes p []).head? = some (addrByte true a)

theorem newEvents_of_append {s t : State} {es : List Event} (h : t.trace = s.trace ++ es) : newEvents s t = es := by
  rw [newEvents, h, List.drop_left]

theorem writesOf_of_same {i : Instr} {p : Params} {s t : State} (h : t.trace = s.trace) :
    WritesOf i p (newEvents s t) := by
  rw [newEvents_of_append (es := []) (by simp [h])]
  intro a v hw
  cases hw

theorem writesOf_cutEvents (n : Nat) (i : Instr) (p : Params) (s : State) :
    WritesOf i p (cutEvents ((i.frameBytes p []).take n) s) := by
  intro a v hw
  have hbytes := bytes_of_write_mem_cutEvents hw
  cases hi : i.frameBytes p [] with
  | nil => simp [hi] at hbytes
  | cons b bs =>
    cases n with
    | zero => cases hbytes
    | succ n =>
      rw [hi, List.take_succ_cons] at hbytes
      obtain ⟨rfl, -⟩ := List.cons.inj hbytes
      rfl

/-- FIFOWR's bracket with any number of bytes sent (R116, R232). -/
theorem writesOf_fifoEvents (len : Byte) {n : Nat} (h : n < 256) (s : State) :
    WritesOf (.fifowr len) s.cfg (fifoEvents n s) := by
  intro a v hw
  have hn : (BitVec.ofNat 8 n).toNat = n := (BitVec.toNat_ofNat n 8).trans (Nat.mod_eq_of_lt h)
  rw [← hn, transactions_fifoEvents, List.mem_singleton] at hw
  exact burstTxn_eq_w (Option.some.inj hw).symm ▸ rfl

theorem writesOf_cutBracket (n : Nat) (i : Instr) (s : State) : WritesOf i s.cfg (newEvents s (s.cutBracket n i)) := by
  by_cases hi : ∃ len, i = .fifowr len
  · obtain ⟨len, rfl⟩ := hi
    cases n with
    | zero =>
      rw [cutBracket_zero, newEvents_of_append (es := cutEvents [] s) rfl]
      exact writesOf_cutEvents 0 _ s.cfg s
    | succ n =>
      rw [cutBracket_fifowr, newEvents_of_append (es := fifoEvents (min n len.toNat) s) rfl]
      exact writesOf_fifoEvents len (Nat.lt_of_le_of_lt (Nat.min_le_right _ _) len.isLt) s
  · rw [cutBracket_frame n s (not_exists.1 hi), newEvents_of_append (es := cutEvents _ s) rfl]
    exact writesOf_cutEvents n i s.cfg s

/-- A whole bracket is one transaction. -/
theorem traced_microEffect {l : Label} {s : State} {i : Instr} (h : microOp l s = .ok i) :
    ∃ x, Traced s (microEffect i s) [x] [] ∧
      ∀ (a : Addr) (v : Byte), x = .w a v → (i.frameBytes s.cfg []).head? = some (addrByte true a) := by
  obtain ⟨a, v, rfl⟩ | ⟨a, rfl⟩ | ⟨n, rfl⟩ | ⟨m, rfl⟩ | rfl | ⟨f, rfl⟩ := microOp_level h
  · exact ⟨_, traced_wrote a v s, fun _ _ hx => by cases hx; rfl⟩
  · exact ⟨_, traced_didRead a _ s, fun _ _ hx => by cases hx⟩
  · exact ⟨_, traced_sentBuffer n s, fun _ _ hx => burstTxn_eq_w hx ▸ rfl⟩
  · exact ⟨_, traced_wrote s.cfg.addrMode (s.cfg.modeVal m) s, fun _ _ hx => by cases hx; rfl⟩
  · exact ⟨_, traced_wrote s.cfg.clrAddr s.cfg.clrVal s, fun _ _ hx => by cases hx; rfl⟩
  · exact ⟨_, traced_didRead _ _ s, fun _ _ hx => by cases hx⟩

/-- What follows a label's micro-operation makes no transaction (R27). -/
theorem traced_advance {l : Label} {u t : State} (h : advance l u = .next t) : ∃ ws, Traced u t [] ws := by
  have hsame {w : State} (hw : w.trace = u.trace) : ∃ ws, Traced u w [] ws := ⟨[], [], rfl, by simp [hw], rfl, rfl⟩
  cases l with
  | i5 | t7m => cases h; exact ⟨[], [.done none], rfl, rfl, rfl, rfl⟩
  | p1 =>
    simp only [advance] at h
    split at h <;> cases h
    · exact ⟨[], (Traced.refl u).pollLoop⟩
    · exact ⟨[], (Traced.refl u).finishPoll false 0⟩
  | p2 =>
    simp only [advance] at h
    split at h <;> cases h
    · exact hsame rfl
    · exact ⟨[], (Traced.refl u).finishPoll true u.idx⟩
  | p3 =>
    simp only [advance] at h
    split at h <;> cases h
    exact ⟨_, (traced_bufWr _ _ _ u).pollLoop⟩
  | i1r2 | i2 | i3c | i3v =>
    cases h
    refine hsame ?_
    simp only [State.gotoI2, State.gotoI3v]
    repeat' split
    all_goals rfl
  | _ => cases h; exact hsame rfl

theorem writesOf_seqStep {s t : State} {i : Instr} (hi : microOp s.seq s = .ok i) (h : seqStep s = .next t) :
    WritesOf i s.cfg (newEvents s t) := by
  cases hb : s.busHeld with
  | true =>
    rw [seqStep_held hb] at h
    cases h
    exact writesOf_of_same rfl
  | false =>
    simp only [seqStep_granted hb, hi] at h
    obtain ⟨x, hx, hwrite⟩ := traced_microEffect hi
    obtain ⟨ws, ht⟩ := traced_advance h
    intro a v hw
    rw [(hx.trans ht).transactions_newEvents] at hw
    exact hwrite a v (Option.some.inj (List.mem_singleton.1 hw)).symm

/-! What a busy master's step writes -/

theorem isFrame_of_isStart {i : Instr} (h : isStart i = true) : isFrame i = false := by
  cases i with
  | init | poll | tx => rfl
  | _ => cases h

theorem issueWord_busy_ne_next (w : PortWord) (rest : List HostMove) {s : State} (hs : s.seq ≠ .idle) (t : State) :
    issueWord w rest s ≠ .next t := by
  cases hd : decode w with
  | error e => simp [issueWord, hd]
  | ok i =>
    rw [issueWord_of_decode hd]
    obtain hf | hst | rfl := decode_level hd
    · simp [hf, hs]
    · simp [isFrame_of_isStart hst, exec_start_busy (s := { s with host := rest }) hst hs]
    · simp [isFrame, exec, execReserved]

/-- A busy master takes no word: it runs its label, unless the host resets it (R94, R118, R230). -/
theorem step_busy_cases {s t : State} (hs : s.seq ≠ .idle) (h : step s = .next t) :
    ∃ rest, seqStep { s with host := rest } = .next t ∨ s.host = .reset :: rest ∨ ∃ n, s.host = .resetIn n :: rest := by
  cases hh : s.host with
  | nil =>
    rw [step_no_move hh, masterStep_busy hs] at h
    exact ⟨s.host, .inl h⟩
  | cons move rest =>
    cases move with
    | issue w =>
      rw [step_issue hh] at h
      exact absurd h (issueWord_busy_ne_next w rest hs t)
    | await =>
      rw [step_await hh, if_neg hs, masterStep_busy hs] at h
      exact ⟨s.host, .inl h⟩
    | pause =>
      rw [step_pause hh, masterStep_busy (s := { s with host := rest }) hs] at h
      exact ⟨rest, .inl h⟩
    | load data =>
      rw [step_load hh, if_neg hs, masterStep_busy hs] at h
      exact ⟨s.host, .inl h⟩
    | reset => exact ⟨rest, .inr (.inl rfl)⟩
    | resetIn n => exact ⟨rest, .inr (.inr ⟨n, rfl⟩)⟩

theorem writesOf_resetInside (n : Nat) {s : State} {i : Instr} (hi : microOp s.seq s = .ok i) :
    WritesOf i s.cfg (newEvents s (s.resetInside n)) := by
  unfold State.resetInside
  rw [hi]
  split
  · exact writesOf_of_same rfl
  · exact writesOf_cutBracket n i s

/-- Whatever the host does, the writes of a busy master's step are its label's. -/
theorem writesOf_step {s t : State} {i : Instr} (hs : s.seq ≠ .idle) (hi : microOp s.seq s = .ok i)
    (h : step s = .next t) : WritesOf i s.cfg (newEvents s t) := by
  obtain ⟨rest, hrun | hh | ⟨n, hh⟩⟩ := step_busy_cases hs h
  · exact writesOf_seqStep (s := { s with host := rest }) ((microOp_host _ _ _).trans hi) hrun
  · rw [step_reset hh] at h
    cases h
    exact writesOf_of_same rfl
  · rw [step_resetIn hh] at h
    cases h
    exact writesOf_resetInside (s := { s with host := rest }) n ((microOp_host _ _ _).trans hi)

/-! TX -/

theorem gMode_of_t2w {s : State} (hl : s.labelOk = true) (hs : s.seq = .t2w) : s.gMode = .known .standby := by
  simp only [State.labelOk, hs, State.inMode, Bool.and_eq_true, beq_iff_eq] at hl
  obtain ⟨⟨⟨-, hg⟩, -⟩, -⟩ := hl
  exact hg

theorem gMode_of_t6w {s : State} (hl : s.labelOk = true) (hs : s.seq = .t6w) : s.gMode = .known .standby := by
  simp only [State.labelOk, hs, State.inMode, Bool.and_eq_true, beq_iff_eq] at hl
  obtain ⟨⟨⟨⟨-, hg⟩, -⟩, -⟩, -⟩ := hl
  exact hg

/-- The two labels of TX that write the sync configuration (R181), R7 (f) keeping the registers apart. -/
theorem seq_of_sync_write {s : State} {i : Instr} (hl : s.labelOk = true) (hp : s.cfg.fixedOk = true) (hc : s.cmd = .tx)
    (hi : microOp s.seq s = .ok i) (hw : (i.frameBytes s.cfg []).head? = some (addrByte true s.cfg.addrSyncCfg)) :
    s.seq = .t2w ∨ s.seq = .t6w := by
  obtain ⟨-, hmode, hfifo, hplen, hclr⟩ := addrs_ne_of_fixedOk hp
  cases hq : s.seq <;> rw [hq] at hi
  case t2w | t6w => simp
  case t1m | t1c | t2r | t3r | t3w | t4 | t5m | t5p | t6m | t7m =>
    cases hi
    simp [Instr.frameBytes, addrByte_inj, hmode, hfifo, hplen, hclr] at hw
  case t7w =>
    simp only [microOp, microRestore] at hi
    split at hi <;> cases hi
    simp [Instr.frameBytes, addrByte_inj, hplen] at hw
  -- the labels of other commands contradict `hl`
  all_goals simp [State.labelOk, hq, hc] at hl

/-- Settles O53: a step writes only its label's register, which is the sync configuration's at T2w and T6w alone; the
invariant of both labels is Standby. -/
theorem txWritesSyncOnlyInStandby : Obligations.TxWritesSyncOnlyInStandby := by
  intro s t v hinv hp hc h hw
  obtain ⟨-, hl, -, -⟩ := s.inv_iff.1 hinv
  have hs : s.seq ≠ .idle := fun hs => by simp [cmd_of_idle hl hs] at hc
  obtain ⟨i, hi⟩ := microOp_ok hl hs
  obtain hq | hq := seq_of_sync_write hl hp hc hi (writesOf_step hs hi h _ v hw)
  · exact gMode_of_t2w hl hq
  · exact gMode_of_t6w hl hq

end Sys2Proof.Machine
